-- ==== Sys2Proof/Word.lean ====
section
/-! DEFINITION. The word types of MS2C-RSE: the widths of the command word, of a configuration value, of a buffer byte, and the row index. -/

namespace Sys2Proof

/-- A command word of the port `cmd_i`: 32 bits (R90, R93). -/
abbrev Word := BitVec 32

/-- A configuration value, a pulse width or a response: 16 bits (R36, R90). -/
abbrev Half := BitVec 16

/-- A frame-buffer byte, a row-address mask or a transmitted byte (R46, R47, R97). -/
abbrev Byte := BitVec 8

/-- `N_ROWS`, the scan rows of one frame: the constant 18 (R6). -/
abbrev nRows : Nat := 18

/-- `ROW_BYTES_BASE`, the bytes of one row of one physical half: the constant 18 (R6). -/
abbrev rowBytesBase : Nat := 18

/-- A logical or physical row, 0..17. The registers that hold one are 5 bits wide and never hold 18..31
(R21, R22, R23), so the index type says exactly what they hold. -/
abbrev Row := Fin 18

end Sys2Proof
end

