-- ==== Sys2Proof/Config.lean ====
section
/-! DEFINITION. The configuration record CFGP (R6), its well-formedness (R7), the profiles P0 and P1 (R8), and the constants with no body that stand for what the spec gives no value. -/

namespace Sys2Proof

/-- `ORDER`: whether a tick latches after or before it shifts (R6, R147, R148). -/
inductive Order where
  | shiftThenLatch
  | latchThenShift
  deriving DecidableEq, Repr

/-- `CFG.BITORDER`: the bit transmission order; 0 is most significant bit first, 1 least significant bit first (R39). -/
inductive BitOrder where
  | msbFirst
  | lsbFirst
  deriving DecidableEq, Repr

/-- `CFG.LAYOUT`: 0 is H (row-major), 1 is V (column-major) (R40). -/
inductive Layout where
  | h
  | v
  deriving DecidableEq, Repr

/-- The configuration record `CFGP` of R6. `N_ROWS` is the constant `nRows`; `ROW_BYTES` and `FB_LEN` are derived below.
That each `RAM` entry fits 8 bits and that `PULSE_MAX` and `INTERVAL_MIN` fit 16 bits (R7) is in the field types. -/
structure Cfgp where
  /-- `K`: how many 18-byte groups one row transmits -/
  k : Nat
  /-- `ROW_STRIDE`: frame-buffer distance between rows -/
  rowStride : Nat
  /-- `PULSE_MAX`: largest legal pulse width -/
  pulseMax : Half
  /-- `INTERVAL_MIN`: smallest legal row interval -/
  intervalMin : Half
  /-- `IMAP`: the Interlace Map, logical row in, physical row out -/
  imap : List Row
  /-- `BSM[0]`: the Byte Selector Map of layout H, transmit position in, offset in the row out -/
  bsmH : List Nat
  /-- `BSM[1]`: the Byte Selector Map of layout V -/
  bsmV : List Nat
  /-- `RAM[0]`: the row-address masks for the bit order with number 0 -/
  ramMsb : List Byte
  /-- `RAM[1]`: the row-address masks for the bit order with number 1 -/
  ramLsb : List Byte
  /-- `ADDR_INLINE`: the row-address byte rides at the end of the shifted sequence -/
  addrInline : Bool
  /-- `ADDR_LAG`: the address sent is the previous physical row's -/
  addrLag : Bool
  /-- `ORDER` -/
  order : Order
  /-- `RST_INTERLACE`: reset value of the interlace flag -/
  rstInterlace : Bool
  deriving DecidableEq, Repr

namespace Cfgp

/-- `ROW_BYTES = 18 × K` (R6). -/
def rowBytes (c : Cfgp) : Nat := rowBytesBase * c.k

/-- `FB_LEN = N_ROWS × ROW_BYTES = 324 × K` (R6). -/
def fbLen (c : Cfgp) : Nat := nRows * c.rowBytes

/-- The table `t` is a bijection on 0..n-1: `n` entries, each below `n`, none repeated (R7). -/
abbrev BijectionOn (n : Nat) (t : List Nat) : Prop :=
  t.length = n ∧ (∀ x ∈ t, x < n) ∧ t.Nodup

/-- Well-formedness of a configuration record (R7). -/
abbrev WellFormed (c : Cfgp) : Prop :=
  1 ≤ c.k ∧ c.rowStride = c.rowBytes ∧ c.fbLen ≤ 65536 ∧
  BijectionOn nRows (c.imap.map Fin.val) ∧
  BijectionOn c.rowBytes c.bsmH ∧ BijectionOn c.rowBytes c.bsmV ∧
  c.ramMsb.length = nRows ∧ c.ramLsb.length = nRows

/-- Profile P0 of R8: out-of-band address, no lag, shift then latch. -/
def profileP0 (c : Cfgp) : Cfgp :=
  { c with addrInline := false, addrLag := false, order := .shiftThenLatch }

/-- Profile P1 of R8: inline address, one-tick lag, latch then shift. -/
def profileP1 (c : Cfgp) : Cfgp :=
  { c with addrInline := true, addrLag := true, order := .latchThenShift }

end Cfgp

/-- A record that has passed the construction-time check: "only a well-formed record may be given to the model" (R7), and an
ill-formed record is refused at construction, with no tick-time fault for it (R251). -/
structure WfCfgp extends Cfgp where
  wf : toCfgp.WellFormed
  deriving DecidableEq, Repr

/-- The construction-time check of R7: a record is refused (`none`) or becomes usable. -/
def Cfgp.construct? (c : Cfgp) : Option WfCfgp :=
  if h : c.WellFormed then some { toCfgp := c, wf := h } else none

namespace Config

/-- FREE VALUE. The byte that offset `off` of frame buffer `b` holds at power-up, one draw per buffer and byte
(R46, R280; 93_implementation_defined.md U9: any value, never zero by default). Log entry 4. -/
opaque powerUpByte (b : Bool) (off : Nat) : Byte

/-- FREE VALUE. `INTERVAL_MIN` of the default machine: the document gives no value (R6). Log entry 2. -/
opaque intervalMin : Half

/-- FREE VALUE. `IMAP` of the default machine: any bijection on 0..17 (R6, R7; 91_not_in_source.md N1). Log entry 2. -/
opaque imap : Equiv.Perm (Fin 18)

/-- FREE VALUE. `BSM` of the default machine, one bijection on 0..35 per layout (R6, R7; 91_not_in_source.md N2). Log entry 2. -/
opaque bsm (l : Layout) : Equiv.Perm (Fin 36)

/-- FREE VALUE. `RAM` of the default machine, 8 bits per bit order and row (R6; 91_not_in_source.md N3). Log entry 2. -/
opaque ram (o : BitOrder) (r : Fin 18) : Byte

theorem ofFn_perm_bijectionOn {n : Nat} (f : Equiv.Perm (Fin n)) :
    Cfgp.BijectionOn n (List.ofFn fun i => (f i).val) :=
  ⟨List.length_ofFn,
   fun x hx => by obtain ⟨i, rfl⟩ := List.mem_ofFn.1 hx; exact (f i).isLt,
   List.nodup_ofFn.2 fun _ _ h => f.injective (Fin.ext h)⟩

/-- The configuration record of the default machine: every field at the default of R6 where R6 gives one (K = 2, PULSE_MAX at
its reference value 15, profile P0, RST_INTERLACE = 0), every other field a free value. Log entry 2. -/
def machineRecord : Cfgp where
  k := 2
  rowStride := 36
  pulseMax := 15
  intervalMin := intervalMin
  imap := List.ofFn imap
  bsmH := List.ofFn fun i => (bsm .h i).val
  bsmV := List.ofFn fun i => (bsm .v i).val
  ramMsb := List.ofFn (ram .msbFirst)
  ramLsb := List.ofFn (ram .lsbFirst)
  addrInline := false
  addrLag := false
  order := .shiftThenLatch
  rstInterlace := false

theorem machineRecord_wellFormed : machineRecord.WellFormed :=
  ⟨by decide, by decide, by decide,
   by simpa [machineRecord, List.map_ofFn, Function.comp_def] using ofFn_perm_bijectionOn imap,
   ofFn_perm_bijectionOn (bsm .h), ofFn_perm_bijectionOn (bsm .v),
   List.length_ofFn, List.length_ofFn⟩

/-- The default machine. -/
def machine : WfCfgp := { toCfgp := machineRecord, wf := machineRecord_wellFormed }

end Config

end Sys2Proof
end

