-- ==== Sys2Proof/Syntax.lean ====
section
/-! DEFINITION. The operations of the opcode table (R98) as one inductive, the port an operation arrives on, and the codes of the command errors. -/

namespace Sys2Proof

/-- One constructor per row of spec/opcode_table.json (R98): the producer's commands and the scan step. Operands are the fields of
the command formats M and C (R93, R94); must-be-zero fields are no operands. -/
inductive Instr where
  /-- idle command (R231) -/
  | nop
  /-- write one byte of the back buffer (R232) -/
  | wrb (off : BitVec 16) (data : Byte)
  /-- read one byte of the back buffer (R233) -/
  | rdb (off : BitVec 16)
  /-- exchange front and back at the frame boundary (R175) -/
  | swap
  /-- exchange, then copy front to back (R177) -/
  | swapc
  /-- wait for the frame boundary (R180) -/
  | wsync
  /-- set the bright pulse width (R202) -/
  | setbrt (imm : Half)
  /-- set the dark pulse width (R203) -/
  | setdrk (imm : Half)
  /-- set the row interval (R204) -/
  | setivl (imm : Half)
  /-- set the bit transmission order (R205) -/
  | setord (imm : Half)
  /-- set the buffer layout (R206) -/
  | setlay (imm : Half)
  /-- set the invert flag (R207) -/
  | setinv (imm : Half)
  /-- set the interlace flag (R208) -/
  | setilc (imm : Half)
  /-- set the greyscale enable (R209) -/
  | setgry (imm : Half)
  /-- read a configuration register or STATUS (R210) -/
  | getcfg (sel : BitVec 4)
  /-- the scan step, a strobe on `tick_i` (R140) -/
  | tick
  deriving DecidableEq, Repr

/-- What arrives at an input port of the block (R90): a command word on `cmd_i`, or a strobe on `tick_i`. -/
inductive PortInput where
  | word (w : Word)
  | strobe
  deriving DecidableEq, Repr

/-- The error codes a command can record (R253). -/
inductive ErrCode where
  /-- code 1: `OP` in 0x8..0xF -/
  | reservedOpcode
  /-- code 2: a must-be-zero field is nonzero -/
  | reservedField
  /-- code 3: `OFF >= FB_LEN` -/
  | offsetRange
  /-- code 4: SETCFG `SEL` 8..15 or GETCFG `SEL` 9..15 -/
  | reservedSelector
  /-- code 5: `IMM > 1` for a 1-bit register -/
  | illegalValue
  deriving DecidableEq, Repr

end Sys2Proof
end

