-- ==== Sys2Proof/WellFormed.lean ====
section
/-! DEFINITION. Which instructions are legal: the operand checks 3, 4 and 5 of R99, which a bit pattern cannot express (checks 1 and 2 are the decoder's). The well-formedness of the configuration record (R7) stands with the record, in Config.lean. -/

namespace Sys2Proof

/-- The instruction passes the operand checks of R99 under the configuration record `c`: a word that passes all five checks
"is legal and executes by its rule". An instruction that fails one still decodes; its meaning is the command error. -/
abbrev Instr.WellFormed (c : Cfgp) : Instr → Prop
  | .nop | .swap | .swapc | .wsync | .tick => True
  | .wrb off _ | .rdb off => off.toNat < c.fbLen
  | .setbrt _ | .setdrk _ | .setivl _ => True
  | .setord imm | .setlay imm | .setinv imm | .setilc imm | .setgry imm => imm.toNat ≤ 1
  | .getcfg sel => sel.toNat ≤ 8

/-- The instruction is a command of the command port, not the strobe of `tick_i` (R98). -/
def Instr.isCommand : Instr → Bool
  | .tick => false
  | .nop | .wrb _ _ | .rdb _ | .swap | .swapc | .wsync | .setbrt _ | .setdrk _ | .setivl _ | .setord _ | .setlay _
  | .setinv _ | .setilc _ | .setgry _ | .getcfg _ => true

end Sys2Proof
end

