-- ==== Sys2Proof/Decode.lean ====
section
/-! DEFINITION. Decoding a command word or a tick strobe into an instruction, total, rejecting an illegal word by the name of its error code (R93, R98, R99), and the encoder written from the same formats, with the pseudo-instructions of R103. -/

namespace Sys2Proof

/-- The number of an error code in the register `errcode` (R253). -/
def ErrCode.code : ErrCode → BitVec 3
  | .reservedOpcode => 1#3
  | .reservedField => 2#3
  | .offsetRange => 3#3
  | .reservedSelector => 4#3
  | .illegalValue => 5#3

namespace Word

/-- `OP`, bits 31:28 in every format (R93). -/
def op (w : Word) : BitVec 4 := w.extractLsb' 28 4

/-- Bits 27:0, must be zero in format Z (R93). -/
def restZ (w : Word) : BitVec 28 := w.extractLsb' 0 28

/-- Bits 27:24, must be zero in format M; the field `SEL` of format C (R93). -/
def sel (w : Word) : BitVec 4 := w.extractLsb' 24 4

/-- `OFF`, bits 23:8 of format M (R93). -/
def off (w : Word) : BitVec 16 := w.extractLsb' 8 16

/-- `DATA`, bits 7:0 of format M (R93). -/
def data (w : Word) : Byte := w.extractLsb' 0 8

/-- Bits 23:16, must be zero in format C (R93). -/
def mbzC (w : Word) : BitVec 8 := w.extractLsb' 16 8

/-- `IMM`, bits 15:0 of format C (R93). -/
def imm (w : Word) : Half := w.extractLsb' 0 16

end Word

/-- A format Z word: legal when bits 27:0 are zero (R93, R99 check 2). -/
def decodeZ (w : Word) (i : Instr) : Except ErrCode Instr :=
  if Word.restZ w = 0#28 then .ok i else .error .reservedField

/-- WRB: bits 27:24 must be zero (R232, R99 check 2). -/
def decodeWrb (w : Word) : Except ErrCode Instr :=
  if Word.sel w = 0#4 then .ok (.wrb (Word.off w) (Word.data w)) else .error .reservedField

/-- RDB: bits 27:24 and `DATA` must be zero (R233, R99 check 2). -/
def decodeRdb (w : Word) : Except ErrCode Instr :=
  if Word.sel w = 0#4 ∧ Word.data w = 0#8 then .ok (.rdb (Word.off w)) else .error .reservedField

/-- The setter that selector `SEL` picks; selectors 8..15 are reserved (R98, R36, R99 check 4). -/
def setterOf (sel : BitVec 4) (imm : Half) : Except ErrCode Instr :=
  match sel.toNat with
  | 0 => .ok (.setbrt imm)
  | 1 => .ok (.setdrk imm)
  | 2 => .ok (.setivl imm)
  | 3 => .ok (.setord imm)
  | 4 => .ok (.setlay imm)
  | 5 => .ok (.setinv imm)
  | 6 => .ok (.setilc imm)
  | 7 => .ok (.setgry imm)
  | _ => .error .reservedSelector

/-- The SETCFG family: bits 23:16 must be zero, checked before the selector (R201, R99 checks 2 and 4). -/
def decodeSetcfg (w : Word) : Except ErrCode Instr :=
  if Word.mbzC w = 0#8 then setterOf (Word.sel w) (Word.imm w) else .error .reservedField

/-- GETCFG: bits 23:16 and `IMM` must be zero; the selector is checked when it executes (R210, R99 checks 2 and 4). -/
def decodeGetcfg (w : Word) : Except ErrCode Instr :=
  if Word.mbzC w = 0#8 ∧ Word.imm w = 0#16 then .ok (.getcfg (Word.sel w)) else .error .reservedField

/-- Classification of a command word by the opcode map of R98 and the checks of R99 in their order; opcodes 0x8 to 0xF are
reserved (check 1). -/
def decodeWord (w : Word) : Except ErrCode Instr :=
  match (Word.op w).toNat with
  | 0 => decodeZ w .nop
  | 1 => decodeWrb w
  | 2 => decodeRdb w
  | 3 => decodeZ w .swap
  | 4 => decodeZ w .swapc
  | 5 => decodeZ w .wsync
  | 6 => decodeSetcfg w
  | 7 => decodeGetcfg w
  | _ => .error .reservedOpcode

/-- Decoding what arrives at an input port: a strobe on `tick_i` is a TICK (R90, R98). -/
def decode : PortInput → Except ErrCode Instr
  | .word w => decodeWord w
  | .strobe => .ok .tick

/-- A format Z word (R93). -/
def formatZ (op : BitVec 4) : Word := op ++ 0#28

/-- A format M word (R93). -/
def formatM (op : BitVec 4) (off : BitVec 16) (data : Byte) : Word := op ++ 0#4 ++ off ++ data

/-- A format C word (R93). -/
def formatC (op sel : BitVec 4) (imm : Half) : Word := op ++ sel ++ 0#8 ++ imm

/-- The port input of an instruction: its word by the formats of R93 and the opcode map of R98, or the strobe. -/
def encode : Instr → PortInput
  | .nop => .word (formatZ 0x0#4)
  | .wrb off data => .word (formatM 0x1#4 off data)
  | .rdb off => .word (formatM 0x2#4 off 0#8)
  | .swap => .word (formatZ 0x3#4)
  | .swapc => .word (formatZ 0x4#4)
  | .wsync => .word (formatZ 0x5#4)
  | .setbrt imm => .word (formatC 0x6#4 0#4 imm)
  | .setdrk imm => .word (formatC 0x6#4 1#4 imm)
  | .setivl imm => .word (formatC 0x6#4 2#4 imm)
  | .setord imm => .word (formatC 0x6#4 3#4 imm)
  | .setlay imm => .word (formatC 0x6#4 4#4 imm)
  | .setinv imm => .word (formatC 0x6#4 5#4 imm)
  | .setilc imm => .word (formatC 0x6#4 6#4 imm)
  | .setgry imm => .word (formatC 0x6#4 7#4 imm)
  | .getcfg sel => .word (formatC 0x7#4 sel 0#16)
  | .tick => .strobe

/-- The word of the pseudo-instruction `SETCFG sel, imm` (R103). -/
def pseudoSetcfg (sel : BitVec 4) (imm : Half) : Word := formatC 0x6#4 sel imm

/-- The word of the pseudo-instruction `GETSTAT`, which is `GETCFG 8` (R103). -/
def pseudoGetstat : Word := formatC 0x7#4 8#4 0#16

/-- The words of the pseudo-instruction `FILL v`: `FB_LEN` WRB commands in ascending offsets (R103). -/
def pseudoFill (c : Cfgp) (v : Byte) : List Word :=
  (List.range c.fbLen).map fun off => formatM 0x1#4 (BitVec.ofNat 16 off) v

/-- What the port receives when an opcode-table row's bits are `w`: the command rows have 32 bits, the TICK row the one bit of
`tick_i` (R98), whose 0 is no strobe. -/
def portInputOfRow (nbits w : Nat) : Option PortInput :=
  if nbits ≤ 8 then (if w % 2 = 1 then some .strobe else none) else some (.word (BitVec.ofNat 32 w))

/-- The instruction the decoder reads from an opcode-table row's bits, none where it refuses. -/
def decodeTableWord (nbits w : Nat) : Option Instr :=
  match portInputOfRow nbits w with
  | none => none
  | some p =>
    match decode p with
    | .ok i => some i
    | .error _ => none

end Sys2Proof
end

