-- ==== Sys2Proof/Machine/Tables.lean ====
section
/-! DEFINITION. Reading the geometry tables of the configuration record (R47): which table a selector picks, and one entry of each. -/

namespace Sys2Proof

namespace Cfgp

/-- `BSM[l]` (R47, R40). -/
def bsm (c : Cfgp) : Layout → List Nat
  | .h => c.bsmH
  | .v => c.bsmV

/-- `RAM[o]` (R47, R39). -/
def ram (c : Cfgp) : BitOrder → List Byte
  | .msbFirst => c.ramMsb
  | .lsbFirst => c.ramLsb

/-- `IMAP[r]`. A well-formed record has 18 entries, so the default is never read. -/
def imapAt (c : Cfgp) (r : Row) : Row := c.imap.getD r.val 0

/-- `RAM[o][a]`. A well-formed record has 18 entries in each table, so the default is never read. -/
def ramAt (c : Cfgp) (o : BitOrder) (a : Row) : Byte := (c.ram o).getD a.val 0

/-- The physical row of logical row `r` when the interlace flag has the value `il`: the function `P` of R26. -/
def physRow (c : Cfgp) (il : Bool) (r : Row) : Row := if il then c.imapAt r else r

end Cfgp

end Sys2Proof
end

