-- ==== Sys2Proof/Machine/State.lean ====
section
/-! DEFINITION. The whole state of MS2C-RSE as plain data (R20 to R50), the ways a step can stop, and the state after reset (R50). -/

namespace Sys2Proof.Machine

/-- `cmd_state` (R33): in `idle` the command port accepts a command, in every other state a synchronisation command is in progress. -/
inductive CmdState where
  | idle
  | waitSwap
  | waitSwapc
  | waitSync
  | copy
  deriving DecidableEq, Repr

/-- One record of the transport port `tx_o` (R97). -/
inductive TxRecord where
  /-- `BEGIN`, code 0: `beginFrameTransmission()` -/
  | beginTx
  /-- `SHIFT(seq)`, code 1: `shiftBytes(sequence)` -/
  | shift (seq : List Byte)
  /-- `LATCH`, code 2: `pulseLatch()` -/
  | latch
  /-- `ILLUM(d)`, code 3: `pulseIllumination(durationUnits)` -/
  | illum (d : Half)
  /-- `ROWADDR(m)`, code 4: `selectRowAddress(mask)` -/
  | rowaddr (m : Byte)
  deriving DecidableEq, Repr

/-- Whose step comes next: one entry of a schedule of the agents of R11 and R263, with the reset input (R90, R280). The transport
takes no step of its own (R263). -/
inductive Turn where
  /-- the scheduler strobes `tick_i` and the engine runs one TICK -/
  | scheduler
  /-- the producer presents its next command word on `cmd_i` -/
  | producer
  /-- the arbitrator takes its step ARB-SWAP, ARB-SWAPC or ARB-SYNC, if one is enabled -/
  | arbitrator
  /-- the copy engine takes its step COPY-BYTE, if it is enabled -/
  | copyEngine
  /-- the reset input is applied -/
  | resetInput
  deriving DecidableEq, Repr

/-- The bytes of one frame buffer that have been written since power-up: offset and byte, offsets strictly rising. An offset that
is not listed has no written byte; the machine then reads the power-up byte, a free value (log entry 4). -/
abbrev Memory := List Host.Cell

/-- The canonical form of a memory: strictly rising addresses, so that no address is listed twice. -/
abbrev Memory.wf (m : Memory) : Prop := m.Pairwise fun x y => x.1 < y.1

/-- The state of the block and what stands around it. The fields are the state R20 lists; the configuration record; what the block
has put out so far; and what the world outside has still to put in. -/
structure State where
  /-- the configuration record CFGP the machine is built from (R6); no step writes it -/
  cfgp : WfCfgp
  /-- `lrow`, the logical row the next TICK services (R21, R24) -/
  lrow : Row
  /-- `prow`, the physical row of the next TICK (R22) -/
  prow : Row
  /-- `pprev`, the physical row of the previous TICK (R23) -/
  pprev : Row
  /-- `phase`, the greyscale phase (R27) -/
  phase : Bool
  /-- `sync`, the sync flag (R28) -/
  sync : Bool
  /-- `apulse`, the active pulse width (R30) -/
  apulse : Half
  /-- `front_sel`, the front/back designator: the front buffer is `BUF[front_sel]` (R32) -/
  frontSel : Bool
  /-- `cmd_state`, the command-port state (R33) -/
  cmdState : CmdState
  /-- `copy_idx`, the copy index (R34) -/
  copyIdx : BitVec 17
  /-- `err`, the sticky error bit (R35) -/
  err : Bool
  /-- `errcode`, the code of the first error since reset (R35) -/
  errcode : BitVec 3
  /-- `CFG.BRIGHT` (R37) -/
  cfgBright : Half
  /-- `CFG.DARK` (R37) -/
  cfgDark : Half
  /-- `CFG.INTERVAL` (R38) -/
  cfgInterval : Half
  /-- `CFG.BITORDER` (R39) -/
  cfgBitorder : BitOrder
  /-- `CFG.LAYOUT` (R40) -/
  cfgLayout : Layout
  /-- `CFG.INVERT` (R41) -/
  cfgInvert : Bool
  /-- `CFG.INTERLACE` (R42) -/
  cfgInterlace : Bool
  /-- `CFG.GREY` (R43) -/
  cfgGrey : Bool
  /-- `BUF[0]` (R46) -/
  buf0 : Memory
  /-- `BUF[1]` (R46) -/
  buf1 : Memory
  /-- the transport event trace, oldest record first: what `tx_o` has carried since reset (R97, R20) -/
  trace : List TxRecord
  /-- the values `rsp_o` has carried since reset, oldest first (R90, R96) -/
  responses : List Half
  /-- the producer's command words not yet accepted, in issue order (R92) -/
  commands : List Word
  /-- which agent steps next, and after it (R11, R73) -/
  schedule : List Turn
  deriving DecidableEq, Repr

/-- Why the machine stops with a fault: never. "the engine has no recoverable error states" (R155), an illegal command word is a
recorded command error after which the block goes on (R252), and a table or bounds violation cannot occur with a record that has
passed construction (R251, 93_implementation_defined.md U6). The type has no constructor. -/
inductive Fault where
  deriving DecidableEq, Repr

/-- Why a step has no meaning. -/
inductive Refusal where
  /-- Raised by an arm of `exec` whose instruction has no meaning yet, by its mnemonic; no arm raises it. Safe. -/
  | notModelled (mnemonic : String)
  deriving DecidableEq, Repr

/-- The state after reset of the machine built from the record `c` (R50, R280), with nothing placed to run. -/
def State.resetOf (c : WfCfgp) : State where
  cfgp := c
  lrow := 0
  prow := c.physRow c.rstInterlace 0
  pprev := c.physRow c.rstInterlace 17
  phase := false
  sync := false
  apulse := 0
  frontSel := false
  cmdState := .idle
  copyIdx := 0
  err := false
  errcode := 0
  cfgBright := 0
  cfgDark := 0
  cfgInterval := c.intervalMin
  cfgBitorder := .msbFirst
  cfgLayout := .h
  cfgInvert := false
  cfgInterlace := c.rstInterlace
  cfgGrey := false
  buf0 := []
  buf1 := []
  trace := []
  responses := []
  commands := []
  schedule := []

/-- The state after reset of the default machine (R6, R50). -/
def State.reset : State := State.resetOf Config.machine

end Sys2Proof.Machine
end

