-- ==== Sys2Proof/Machine/Ops.lean ====
section
/-! DEFINITION. The shared operations: reading and writing a frame buffer, the output ports, accepting a command, taking a command error (the block's only exception), and applying reset. -/

namespace Sys2Proof.Machine

/-- The byte written at `a`, none if nothing has been written there since power-up. -/
def Memory.read : Memory → Nat → Option Byte
  | [], _ => none
  | (x, v) :: m, a => if x = a then some v else Memory.read m a

/-- Writing the byte `v` at `a`, keeping the addresses strictly rising. -/
def Memory.write : Memory → Nat → Byte → Memory
  | [], a, v => [(a, v)]
  | (x, w) :: m, a, v =>
    if a < x then (a, v) :: (x, w) :: m
    else if x = a then (a, v) :: m
    else (x, w) :: Memory.write m a v

namespace State

/-- The written bytes of `BUF[b]` (R46). -/
def buf (s : State) (b : Bool) : Memory := if b then s.buf1 else s.buf0

/-- `BufRead(b, off)` of R10. A byte never written since power-up reads as the free value drawn for it (R46, R233). -/
def bufRead (s : State) (b : Bool) (off : Nat) : Byte :=
  ((s.buf b).read off).getD (Config.powerUpByte b off)

/-- `BufWrite(b, off, v)` of R10. -/
def bufWrite (s : State) (b : Bool) (off : Nat) (v : Byte) : State :=
  if b then { s with buf1 := s.buf1.write off v } else { s with buf0 := s.buf0.write off v }

/-- `cmd_ready = 1` exactly when `cmd_state = IDLE` (R92). -/
def cmdReady (s : State) : Bool := s.cmdState == .idle

/-- `sync_o`, the sync flag as a level (R90, R91). -/
def syncO (s : State) : Bool := s.sync

/-- `front_o`, the designation (R90, R91). -/
def frontO (s : State) : Bool := s.frontSel

/-- `bitorder_o`, the bit order the transport shifts each byte in (R90, R39). -/
def bitorderO (s : State) : BitOrder := s.cfgBitorder

/-- `interval_o`, the row interval the scheduler is asked to tick at (R90, R38). -/
def intervalO (s : State) : Half := s.cfgInterval

/-- `respond v` of R10: the value appears on the response port (R96). -/
def respond (s : State) (v : Half) : State := { s with responses := s.responses ++ [v] }

/-- `emit` of R10, for the records of one tick in their order (R97). -/
def emit (s : State) (es : List TxRecord) : State := { s with trace := s.trace ++ es }

/-- TAKING A COMMAND ERROR, `error(c)` of R252: `err` is set, `errcode` keeps the code of the first error, the command completes
with no other effect and no response. This is the block's only exception; nothing is saved, so there is no return from it (R256). -/
def error (s : State) (c : ErrCode) : State :=
  { s with err := true, errcode := if s.err then s.errcode else c.code }

/-- Applying reset, one atomic step (R280): every register at its value of R50, the pending command and the copy aborted, the
transport trace empty; the frame buffers keep what they held. The configuration record, and what the producer and the other agents
have still to do, are outside the block and stay (log entry 7). -/
def applyReset (s : State) : State :=
  { State.resetOf s.cfgp with
    buf0 := s.buf0, buf1 := s.buf1, commands := s.commands, schedule := s.schedule }

end State

/-- `TxRecord.code` is the record kind's number on `tx_o` (R97); codes 5 to 7 are unused. -/
def TxRecord.code : TxRecord → BitVec 3
  | .beginTx => 0
  | .shift _ => 1
  | .latch => 2
  | .illum _ => 3
  | .rowaddr _ => 4

/-- A command executes in the step in which the port accepts it, and the port accepts only in `IDLE` (R92); otherwise the command
waits and nothing changes. `t` is the state after the command's effect. -/
def accept (s t : State) : Host.Outcome State Fault Refusal :=
  .next (if s.cmdReady then t else s)

end Sys2Proof.Machine
end

