-- ==== Sys2Proof/Machine/Operands.lean ====
section
/-! DEFINITION. The operand forms of the commands: the effective address of a buffer access, the clamped immediate, the one-bit immediate, and the selector. -/

namespace Sys2Proof.Machine

/-- The effective address of WRB and RDB: the pair (`~front_sel`, `OFF`), no base, no index, no scaling (R230). -/
def State.effAddr (s : State) (off : BitVec 16) : Bool × Nat := (!s.frontSel, off.toNat)

/-- The operand check of WRB and RDB: `OFF < FB_LEN` (R67, R99 check 3). -/
def State.offsetLegal (s : State) (off : BitVec 16) : Bool := off.toNat < s.cfgp.fbLen

/-- `min(IMM, PULSE_MAX)` on 16-bit unsigned values (R202, R203, R211). -/
def clampPulse (c : Cfgp) (imm : Half) : Half := if imm.toNat ≤ c.pulseMax.toNat then imm else c.pulseMax

/-- `max(IMM, INTERVAL_MIN)` on 16-bit unsigned values (R204, R211). -/
def clampInterval (c : Cfgp) (imm : Half) : Half := if c.intervalMin.toNat ≤ imm.toNat then imm else c.intervalMin

/-- The immediate of a 1-bit setter: legal when `IMM ≤ 1`, and then `IMM[0]` (R99 check 5, R205 to R209). -/
def oneBit (imm : Half) : Option Bool := if imm.toNat ≤ 1 then some (imm.getLsbD 0) else none

/-- The bit order with number `b` (R39). -/
def bitOrderOf (b : Bool) : BitOrder := if b then .lsbFirst else .msbFirst

/-- The layout with number `b` (R40). -/
def layoutOf (b : Bool) : Layout := if b then .v else .h

/-- The number of a bit order, as `CFG.BITORDER` is read back (R39). -/
def bitOrderBit : BitOrder → Bool
  | .msbFirst => false
  | .lsbFirst => true

/-- The number of a layout, as `CFG.LAYOUT` is read back (R40). -/
def layoutBit : Layout → Bool
  | .h => false
  | .v => true

/-- A 1-bit register zero-extended to the response width (R96). -/
def zextBit (b : Bool) : Half := BitVec.zeroExtend 16 (BitVec.ofBool b)

end Sys2Proof.Machine
end

