-- ==== Sys2Proof/Machine/Flags.lean ====
section
/-! DEFINITION. The 1-bit status flags and what is computed from them: STATUS, the value of a selector, and the flag and counter updates of a tick (R31, R44, R151, R153). -/

namespace Sys2Proof.Machine

namespace State

/-- `STATUS` (R44): bit 0 `sync`, bit 1 `front_sel`, bit 2 `err`, bits 5:3 `errcode`, bits 15:6 zero. -/
def status (s : State) : Half :=
  0#10 ++ s.errcode ++ BitVec.ofBool s.err ++ BitVec.ofBool s.frontSel ++ BitVec.ofBool s.sync

/-- The value GETCFG reads for selector `SEL`, 1-bit registers zero-extended; selectors 9..15 are reserved (R36, R210). -/
def selectorValue (s : State) (sel : BitVec 4) : Option Half :=
  match sel.toNat with
  | 0 => some s.cfgBright
  | 1 => some s.cfgDark
  | 2 => some s.cfgInterval
  | 3 => some (zextBit (bitOrderBit s.cfgBitorder))
  | 4 => some (zextBit (layoutBit s.cfgLayout))
  | 5 => some (zextBit s.cfgInvert)
  | 6 => some (zextBit s.cfgInterlace)
  | 7 => some (zextBit s.cfgGrey)
  | 8 => some s.status
  | _ => none

/-- The logical row after this tick, `(lrow + 1) mod N_ROWS` (R151, R158). -/
def nextRow (s : State) : Row := ⟨(s.lrow.val + 1) % nRows, Nat.mod_lt _ (by decide)⟩

/-- The phase after this tick: complemented when the logical row wraps to 0, whatever `CFG.GREY` (R151). -/
def nextPhase (s : State) : Bool := if s.nextRow = 0 then !s.phase else s.phase

/-- The sync flag after this tick: 1 iff the tick serviced the last logical row (R153). -/
def nextSync (s : State) : Bool := s.nextRow = 0

/-- The invert mask: 0xFF when `CFG.INVERT = 1`, else 0x00 (R122). -/
def invertMask (s : State) : Byte := if s.cfgInvert then 0xFF else 0x00

end State

end Sys2Proof.Machine
end

