-- ==== Sys2Proof/Machine/Arbitrator.lean ====
section
/-! DEFINITION. The swap arbitrator: acceptance of SWAP, SWAPC and WSYNC, and the internal steps ARB-SWAP, ARB-SWAPC, ARB-SYNC and COPY-BYTE (R170 to R187). -/

namespace Sys2Proof.Machine

/-- SWAP accepted: the request is pending (R175). -/
def execSwap (s : State) : Host.Outcome State Fault Refusal := accept s { s with cmdState := .waitSwap }

/-- SWAPC accepted: the request is pending (R177). -/
def execSwapc (s : State) : Host.Outcome State Fault Refusal := accept s { s with cmdState := .waitSwapc }

/-- WSYNC accepted: the request is pending (R180). -/
def execWsync (s : State) : Host.Outcome State Fault Refusal := accept s { s with cmdState := .waitSync }

namespace State

/-- ARB-SWAP: the designation is exchanged and the producer released (R176). -/
def arbSwap (s : State) : State := { s with frontSel := !s.frontSel, cmdState := .idle }

/-- ARB-SWAPC: the designation is exchanged and the copy begins, the producer stays blocked (R178). -/
def arbSwapc (s : State) : State := { s with frontSel := !s.frontSel, copyIdx := 0, cmdState := .copy }

/-- ARB-SYNC: the producer is released (R181). -/
def arbSync (s : State) : State := { s with cmdState := .idle }

/-- The arbitrator's step, enabled only while `sync = 1` and a command is pending; its turn passes otherwise (R170, R176, R178, R181). -/
def arbStep (s : State) : State :=
  if s.sync then
    match s.cmdState with
    | .waitSwap => s.arbSwap
    | .waitSwapc => s.arbSwapc
    | .waitSync => s.arbSync
    | .idle => s
    | .copy => s
  else s

/-- COPY-BYTE: one byte from the front to the back buffer, or the end of the copy (R179). -/
def copyByte (s : State) : State :=
  if s.copyIdx.toNat < s.cfgp.fbLen then
    { s.bufWrite (!s.frontSel) s.copyIdx.toNat (s.bufRead s.frontSel s.copyIdx.toNat) with copyIdx := s.copyIdx + 1 }
  else { s with cmdState := .idle }

/-- The copy engine's step, enabled iff `cmd_state = COPY`, whatever `sync`; its turn passes otherwise (R179). -/
def copyStep (s : State) : State :=
  match s.cmdState with
  | .copy => s.copyByte
  | .idle | .waitSwap | .waitSwapc | .waitSync => s

end State

end Sys2Proof.Machine
end

