-- ==== Sys2Proof/Machine/BufferCmd.lean ====
section
/-! DEFINITION. Producer buffer access: NOP, WRB, RDB (R230 to R234). -/

namespace Sys2Proof.Machine

/-- NOP: nothing (R231). -/
def execNop (s : State) : Host.Outcome State Fault Refusal := accept s s

/-- WRB: the byte goes to the effective address in the back buffer, or the offset is an error (R232). -/
def execWrb (off : BitVec 16) (data : Byte) (s : State) : Host.Outcome State Fault Refusal :=
  accept s (if s.offsetLegal off then s.bufWrite (s.effAddr off).1 (s.effAddr off).2 data else s.error .offsetRange)

/-- RDB: responds the byte at the effective address, zero-extended, or the offset is an error (R233, R96). -/
def execRdb (off : BitVec 16) (s : State) : Host.Outcome State Fault Refusal :=
  accept s (if s.offsetLegal off then s.respond (BitVec.zeroExtend 16 (s.bufRead (s.effAddr off).1 (s.effAddr off).2))
    else s.error .offsetRange)

end Sys2Proof.Machine
end

