-- ==== Sys2Proof/Machine/ConfigCmd.lean ====
section
/-! DEFINITION. The configuration commands: the eight setters and GETCFG (R200 to R212). -/

namespace Sys2Proof.Machine

/-- A 1-bit setter: the register takes `IMM[0]`, or `IMM > 1` is an error and the register keeps its value (R201, R99 check 5). -/
def setBit (imm : Half) (write : Bool → State) (s : State) : Host.Outcome State Fault Refusal :=
  accept s (match oneBit imm with
    | some b => write b
    | none => s.error .illegalValue)

/-- SETBRT: `CFG.BRIGHT <- min(IMM, PULSE_MAX)` (R202). -/
def execSetbrt (imm : Half) (s : State) : Host.Outcome State Fault Refusal :=
  accept s { s with cfgBright := clampPulse s.cfgp.toCfgp imm }

/-- SETDRK: `CFG.DARK <- min(IMM, PULSE_MAX)` (R203). -/
def execSetdrk (imm : Half) (s : State) : Host.Outcome State Fault Refusal :=
  accept s { s with cfgDark := clampPulse s.cfgp.toCfgp imm }

/-- SETIVL: `CFG.INTERVAL <- max(IMM, INTERVAL_MIN)` (R204). -/
def execSetivl (imm : Half) (s : State) : Host.Outcome State Fault Refusal :=
  accept s { s with cfgInterval := clampInterval s.cfgp.toCfgp imm }

/-- SETORD (R205). -/
def execSetord (imm : Half) (s : State) : Host.Outcome State Fault Refusal :=
  setBit imm (fun b => { s with cfgBitorder := bitOrderOf b }) s

/-- SETLAY (R206). -/
def execSetlay (imm : Half) (s : State) : Host.Outcome State Fault Refusal :=
  setBit imm (fun b => { s with cfgLayout := layoutOf b }) s

/-- SETINV (R207). -/
def execSetinv (imm : Half) (s : State) : Host.Outcome State Fault Refusal :=
  setBit imm (fun b => { s with cfgInvert := b }) s

/-- SETILC (R208). -/
def execSetilc (imm : Half) (s : State) : Host.Outcome State Fault Refusal :=
  setBit imm (fun b => { s with cfgInterlace := b }) s

/-- SETGRY (R209). -/
def execSetgry (imm : Half) (s : State) : Host.Outcome State Fault Refusal :=
  setBit imm (fun b => { s with cfgGrey := b }) s

/-- GETCFG: responds the stored value of the selector, or a reserved selector is an error (R210). -/
def execGetcfg (sel : BitVec 4) (s : State) : Host.Outcome State Fault Refusal :=
  accept s (match s.selectorValue sel with
    | some v => s.respond v
    | none => s.error .reservedSelector)

end Sys2Proof.Machine
end

