-- ==== Sys2Proof/Machine/Composer.lean ====
section
/-! DEFINITION. The row composer COMPOSE (R120): the byte remapper through the Byte Selector Map, the inversion, and the row-address appender. -/

namespace Sys2Proof.Machine

/-- The frame-buffer offset for table entry `j` of physical row `p`: `BSM[l][i] + p × ROW_STRIDE` with `j = BSM[l][i]` (R61). -/
def composeOffset (c : Cfgp) (p : Row) (j : Nat) : Nat := j + p.val * c.rowStride

/-- The data bytes of COMPOSE in transmit order: position `i` reads the offset that `BSM[l][i]` names, XOR the mask (R120, R121). -/
def composeData (s : State) (b : Bool) (p : Row) (l : Layout) (m : Byte) : List Byte :=
  (s.cfgp.bsm l).map fun j => s.bufRead b (composeOffset s.cfgp.toCfgp p j) ^^^ m

/-- The row-address byte that rides inline, not inverted; none when `ADDR_INLINE = 0` (R123). -/
def composeAddr (s : State) (o : BitOrder) (a : Row) : List Byte :=
  if s.cfgp.addrInline then [s.cfgp.ramAt o a] else []

/-- `COMPOSE(b, p, l, m, o, a)` (R120). -/
def compose (s : State) (b : Bool) (p : Row) (l : Layout) (m : Byte) (o : BitOrder) (a : Row) : List Byte :=
  composeData s b p l m ++ composeAddr s o a

end Sys2Proof.Machine
end

