-- ==== Sys2Proof/Machine/Scan.lean ====
section
/-! DEFINITION. The scan engine step TICK (R140): its values named one by one, its sub-steps T0 to T7, and their sequence. -/

namespace Sys2Proof.Machine

namespace State

/-- T1: the row whose address this tick sends, the previous physical row when `ADDR_LAG = 1` (R143). -/
def addrRow (s : State) : Row := if s.cfgp.addrLag then s.pprev else s.prow

/-- T2: the source buffer, the back buffer in `phase = 1` frames with greyscale enabled, else the front buffer (R144). -/
def sourceBuffer (s : State) : Bool := if s.cfgGrey && s.phase then !s.frontSel else s.frontSel

/-- T3: the active pulse width, recomputed on the frame's first row from the phase (R145). -/
def nextPulse (s : State) : Half :=
  if s.lrow = 0 then (if s.phase then s.cfgDark else s.cfgBright) else s.apulse

/-- T4: the byte sequence of this tick (R146). -/
def composedRow (s : State) : List Byte :=
  compose s s.sourceBuffer s.prow s.cfgLayout s.invertMask s.cfgBitorder s.addrRow

/-- The out-of-band row address, sent only when `ADDR_INLINE = 0` (R147, R148, R149). -/
def rowaddrRecords (s : State) : List TxRecord :=
  if s.cfgp.addrInline then [] else [.rowaddr (s.cfgp.ramAt s.cfgBitorder s.addrRow)]

/-- T5: the records one tick emits, given the pulse width as T3 wrote it (R147, R148). -/
def tickRecords (s : State) (pulse : Half) : List TxRecord :=
  match s.cfgp.order with
  | .shiftThenLatch => [.beginTx, .shift s.composedRow] ++ s.rowaddrRecords ++ [.latch, .illum pulse]
  | .latchThenShift => [.latch] ++ s.rowaddrRecords ++ [.beginTx, .shift s.composedRow, .illum pulse]

/-- T6: the physical row of the next tick, through `IMAP` when interlace is enabled (R152). -/
def nextPhysRow (s : State) : Row := s.cfgp.physRow s.cfgInterlace s.nextRow

/-- Sub-step T0: the sync flag is cleared (R142). -/
def tickClearSync (s : State) : State := { s with sync := false }

/-- Sub-step T3: the active pulse width (R145). -/
def tickPulse (s : State) : State := { s with apulse := s.nextPulse }

/-- Sub-steps T1, T2, T4 and T5: the row is captured, composed and handed to the transport (R143, R144, R146, R147, R148). -/
def tickEmit (s : State) : State := s.emit (s.tickRecords s.apulse)

/-- Sub-step T6: the previous row, the phase, the row counter and the next physical row (R150, R151, R152). -/
def tickAdvance (s : State) : State :=
  { s with pprev := s.prow, phase := s.nextPhase, lrow := s.nextRow, prow := s.nextPhysRow }

/-- Sub-step T7: the sync flag is set iff the row counter has wrapped to 0 (R153). -/
def tickSync (s : State) : State := { s with sync := s.lrow = 0 }

/-- TICK: the sub-steps T0 to T7 in order, one atomic step (R140, R68). -/
def tick (s : State) : State := s.tickClearSync.tickPulse.tickEmit.tickAdvance.tickSync

end State

/-- TICK: no operands, no conditions, always completes (R140, R155, R159). -/
def execTick (s : State) : Host.Outcome State Fault Refusal := .next s.tick

end Sys2Proof.Machine
end

