-- ==== Sys2Proof/Machine/Dispatch.lean ====
section
/-! DEFINITION. One arm per instruction: which meaning runs it. -/

namespace Sys2Proof.Machine

/-- The meaning of an instruction, by its constructor. -/
def exec (i : Instr) (s : State) : Host.Outcome State Fault Refusal :=
  match i with
  | .nop => Sys2Proof.Machine.execNop s
  | .wrb off data => Sys2Proof.Machine.execWrb off data s
  | .rdb off => Sys2Proof.Machine.execRdb off s
  | .swap => Sys2Proof.Machine.execSwap s
  | .swapc => Sys2Proof.Machine.execSwapc s
  | .wsync => Sys2Proof.Machine.execWsync s
  | .setbrt imm => Sys2Proof.Machine.execSetbrt imm s
  | .setdrk imm => Sys2Proof.Machine.execSetdrk imm s
  | .setivl imm => Sys2Proof.Machine.execSetivl imm s
  | .setord imm => Sys2Proof.Machine.execSetord imm s
  | .setlay imm => Sys2Proof.Machine.execSetlay imm s
  | .setinv imm => Sys2Proof.Machine.execSetinv imm s
  | .setilc imm => Sys2Proof.Machine.execSetilc imm s
  | .setgry imm => Sys2Proof.Machine.execSetgry imm s
  | .getcfg sel => Sys2Proof.Machine.execGetcfg sel s
  | .tick => Sys2Proof.Machine.execTick s

end Sys2Proof.Machine
end

