-- ==== Sys2Proof/Machine/Ports.lean ====
section
/-! DEFINITION. What the next turn of the schedule brings: an instruction to run, or an internal step already taken (R11, R92, R104). -/

namespace Sys2Proof.Machine

/-- What a turn brings. -/
inductive Fetched where
  /-- an instruction runs on this state, from which its turn and its word have been taken -/
  | run (i : Instr) (s : State)
  /-- no instruction: the step is complete and leaves this state -/
  | settled (s : State)
  deriving DecidableEq, Repr

namespace State

/-- An input at a port: the decoded instruction runs, an illegal word takes its command error (R99, R252). -/
def present (s : State) (p : PortInput) : Fetched :=
  match decode p with
  | .ok i => .run i s
  | .error c => .settled (s.error c)

/-- The producer's turn: its next word is accepted when the port is ready; while it is not, the word waits (R92). -/
def producerTurn (s : State) : Fetched :=
  if s.cmdReady then
    match s.commands with
    | [] => .settled s
    | w :: ws => State.present { s with commands := ws } (.word w)
  else .settled s

/-- The turn of one agent (R11, R263). -/
def turn (s : State) : Turn → Fetched
  | .scheduler => s.present .strobe
  | .producer => s.producerTurn
  | .arbitrator => .settled s.arbStep
  | .copyEngine => .settled s.copyStep
  | .resetInput => .settled s.applyReset

/-- What the schedule brings next. With nothing scheduled the block is idle (R265). -/
def fetch (s : State) : Fetched :=
  match s.schedule with
  | [] => .settled s
  | t :: ts => State.turn { s with schedule := ts } t

/-- An input placed so that the next turn brings it: a word on the command port with the port open, or a strobe on the tick port. -/
def placeInput (s : State) : PortInput → State
  | .word w => { s with commands := w :: s.commands, schedule := .producer :: s.schedule, cmdState := .idle }
  | .strobe => { s with schedule := .scheduler :: s.schedule }

end State

end Sys2Proof.Machine
end

