-- ==== Sys2Proof/Machine/Step.lean ====
section
/-! DEFINITION. One atomic step of the block (R68, R73), and placing an opcode-table row's bits where the next step takes its instruction. -/

namespace Sys2Proof.Machine

/-- One step: the next turn of the schedule, and the instruction it brings, if any. -/
def step (s : State) : Host.Outcome State Fault Refusal :=
  match s.fetch with
  | .run i t => exec i t
  | .settled t => .next t

/-- `s` with the row's bits at the port the row belongs to, so that the next step runs exactly that instruction (log entry 6). -/
def State.withFetchWord (s : State) (nbits w : Nat) : State :=
  match portInputOfRow nbits w with
  | some p => s.placeInput p
  | none => s

end Sys2Proof.Machine
end

