-- ==== Sys2Proof/Machine/Script.lean ====
section
/-! DEFINITION. The script notation of R104: commands with directives that say where the other agents act, as a schedule. -/

namespace Sys2Proof.Machine

/-- One line of a script (R104). -/
inductive Directive where
  /-- a command word the producer issues -/
  | command (w : Word)
  /-- `@RESET` -/
  | reset
  /-- `@TICK n` -/
  | tick (n : Nat)
  /-- `@ARB` -/
  | arb
  /-- `@COPY n` -/
  | copy (n : Nat)
  /-- `@COPY *`: the copy runs to its end, at most `FB_LEN` byte steps and the final one (R179) -/
  | copyAll
  deriving DecidableEq, Repr

/-- The turns a line takes, on a machine built from `c`. -/
def Directive.turns (c : Cfgp) : Directive → List Turn
  | .command _ => [.producer]
  | .reset => [.resetInput]
  | .tick n => List.replicate n .scheduler
  | .arb => [.arbitrator]
  | .copy n => List.replicate n .copyEngine
  | .copyAll => List.replicate (c.fbLen + 1) .copyEngine

/-- The command word of a line, if it is a command. -/
def Directive.word? : Directive → Option Word
  | .command w => some w
  | .reset | .tick _ | .arb | .copy _ | .copyAll => none

/-- A script loaded after what is already scheduled. -/
def State.loadScript (s : State) (ds : List Directive) : State :=
  { s with
    commands := s.commands ++ ds.filterMap Directive.word?
    schedule := s.schedule ++ ds.flatMap (Directive.turns s.cfgp.toCfgp) }

end Sys2Proof.Machine
end

