-- ==== Sys2Proof/Safety.lean ====
section
/-! DEFINITION. The terms claims are stated in: the invariants of the spec, the checks of R99 read off a word's number, runs of ticks and of turns, and what counts as a safe run. -/

namespace Sys2Proof.Machine

/-- The logical row before `r` in the scan cycle. -/
def prevRow (r : Row) : Row := ⟨(r.val + 17) % nRows, Nat.mod_lt _ (by decide)⟩

/-- A transport record the block may emit under the record `c`: the sequence has length `ROW_BYTES + ADDR_INLINE`, the duration is
at most `PULSE_MAX`, and the address goes out of band only when `ADDR_INLINE = 0` (R97, R30, R149). -/
def TxRecord.legal (c : Cfgp) : TxRecord → Prop
  | .beginTx | .latch => True
  | .shift seq => seq.length = c.rowBytes + (if c.addrInline then 1 else 0)
  | .illum d => d.toNat ≤ c.pulseMax.toNat
  | .rowaddr _ => c.addrInline = false

/-- The invariants of the architectural state. -/
structure Inv (s : State) : Prop where
  /-- R26: `prow` is the image of `lrow` under the map in force when it was written -/
  prow_image : ∃ il, s.prow = s.cfgp.physRow il s.lrow
  /-- R26, R23: `pprev` is such an image of the row before -/
  pprev_image : ∃ il, s.pprev = s.cfgp.physRow il (prevRow s.lrow)
  /-- R28: the sync flag is up only before the first row of a frame -/
  sync_first_row : s.sync = true → s.lrow = 0
  /-- R30 -/
  apulse_le : s.apulse.toNat ≤ s.cfgp.pulseMax.toNat
  /-- R36, R37 -/
  bright_le : s.cfgBright.toNat ≤ s.cfgp.pulseMax.toNat
  /-- R36, R37 -/
  dark_le : s.cfgDark.toNat ≤ s.cfgp.pulseMax.toNat
  /-- R36, R38 -/
  interval_ge : s.cfgp.intervalMin.toNat ≤ s.cfgInterval.toNat
  /-- R34: `copy_idx` is in 0..FB_LEN -/
  copyIdx_le : s.copyIdx.toNat ≤ s.cfgp.fbLen
  /-- R34: while the copy runs, the bytes below `copy_idx` have been copied -/
  copied_below : s.cmdState = .copy →
    ∀ off, off < s.copyIdx.toNat → s.bufRead (!s.frontSel) off = s.bufRead s.frontSel off
  /-- R253: no error, code 0 -/
  no_error_code : s.err = false → s.errcode = 0
  /-- R253: an error has one of the codes 1 to 5 -/
  error_code : s.err = true → 1 ≤ s.errcode.toNat ∧ s.errcode.toNat ≤ 5
  /-- the memory keeps its canonical form -/
  buf_wf : ∀ b, (s.buf b).wf
  /-- R46: the buffers hold bytes at the offsets 0..FB_LEN-1 only -/
  buf_range : ∀ b, ∀ x ∈ s.buf b, x.1 < s.cfgp.fbLen
  /-- R97: every record emitted so far is one the block may emit -/
  trace_legal : ∀ e ∈ s.trace, e.legal s.cfgp.toCfgp

/-- The code of the first check of R99 that the word fails, in the order of R99 and with the codes of R253, read off the word as a
number; none for a legal word. -/
def firstFailingCheck (c : Cfgp) (w : Nat) : Option (BitVec 3) :=
  let op := w / 2 ^ 28
  let sel := w / 2 ^ 24 % 16
  if 8 ≤ op then some 1
  else if ((op = 0 ∨ op = 3 ∨ op = 4 ∨ op = 5) ∧ w % 2 ^ 28 ≠ 0) ∨ ((op = 1 ∨ op = 2) ∧ sel ≠ 0) ∨
      (op = 2 ∧ w % 2 ^ 8 ≠ 0) ∨ ((op = 6 ∨ op = 7) ∧ w / 2 ^ 16 % 2 ^ 8 ≠ 0) ∨ (op = 7 ∧ w % 2 ^ 16 ≠ 0) then
    some 2
  else if (op = 1 ∨ op = 2) ∧ c.fbLen ≤ w / 2 ^ 8 % 2 ^ 16 then some 3
  else if (op = 6 ∧ 8 ≤ sel) ∨ (op = 7 ∧ 9 ≤ sel) then some 4
  else if op = 6 ∧ 3 ≤ sel ∧ 1 < w % 2 ^ 16 then some 5
  else none

/-- `n` ticks in a row. -/
def ticks : Nat → State → State
  | 0, s => s
  | n + 1, s => ticks n s.tick

/-- The physical rows that `n` consecutive ticks service, in tick order. -/
def servicedRows : Nat → State → List Row
  | 0, _ => []
  | n + 1, s => s.prow :: servicedRows n s.tick

/-- The source buffers `n` consecutive ticks read, in tick order. -/
def servicedSources : Nat → State → List Bool
  | 0, _ => []
  | n + 1, s => s.sourceBuffer :: servicedSources n s.tick

/-- The state with only its schedule replaced. -/
def State.withSchedule (s : State) (ts : List Turn) : State := { s with schedule := ts }

/-- One step leads from `s` to `t`. -/
def StepsTo (s t : State) : Prop := step s = .next t

/-- A run: any number of steps. -/
def Runs : State → State → Prop := Relation.ReflTransGen StepsTo

/-- A run is safe when it never stops and every state on it meets the invariants. -/
def SafeFrom (s : State) : Prop := ∀ n, ∃ t, Host.Core.run Sys2Proof.core n s = .next t ∧ Inv t

end Sys2Proof.Machine
end

