-- ==== Sys2Proof/Certificates/Slice0/Obligations.lean ====
section
/-! DEFINITION. The statements about the model, from the numbered rules of the spec. -/

open Sys2Proof Sys2Proof.Machine

/-! ## Encoding -/

/-- Decoding the encoding of an instruction gives it back, for every instruction and every operand value (formats of R93, operation
map of R98). -/
def Obligations.DecodeOfEncodeIsTheInstruction : Prop :=
  ∀ i : Instr, decode (encode i) = .ok i

/-- Each port input has one meaning: an input that decodes is the encoding of what it decodes to (R93, R98, R99). -/
def Obligations.EncodeOfDecodedInputIsTheInput : Prop :=
  ∀ (p : PortInput) (i : Instr), decode p = .ok i → encode i = p

/-- R99: the checks in their order classify every word presented at an open port. The first that fails decides the code and the
command does `error(c)` and nothing else; a word that passes all five decodes to a legal instruction, which executes. -/
def Obligations.WordIsClassifiedByTheFirstFailingCheck : Prop :=
  ∀ (s : State) (w : Word) (ws : List Word) (ts : List Turn),
    s.schedule = .producer :: ts → s.commands = w :: ws → s.cmdState = .idle →
    (∀ c, firstFailingCheck s.cfgp.toCfgp w.toNat = some c →
      step s = .next { s with
        schedule := ts, commands := ws, err := true, errcode := if s.err then s.errcode else c }) ∧
    (firstFailingCheck s.cfgp.toCfgp w.toNat = none →
      ∃ i, decode (.word w) = .ok i ∧ i.WellFormed s.cfgp.toCfgp ∧
        step s = exec i { s with schedule := ts, commands := ws })

/-- Words of the table of 95_test_vectors.md section 2.1 decode to the commands they stand for, and the illegal ones that no operand
value decides are rejected with their code. -/
def Obligations.VectorWordsDecodeToTheirCommands : Prop :=
  decode (.word 0x00000000) = .ok .nop ∧ decode (.word 0x10001155) = .ok (.wrb 17 0x55) ∧
  decode (.word 0x10014301) = .ok (.wrb 323 0x01) ∧ decode (.word 0x20001100) = .ok (.rdb 17) ∧
  decode (.word 0x30000000) = .ok .swap ∧ decode (.word 0x40000000) = .ok .swapc ∧
  decode (.word 0x50000000) = .ok .wsync ∧ decode (.word 0x60000014) = .ok (.setbrt 20) ∧
  decode (.word 0x61000003) = .ok (.setdrk 3) ∧ decode (.word 0x62000032) = .ok (.setivl 50) ∧
  decode (.word 0x67000001) = .ok (.setgry 1) ∧ decode (.word 0x78000000) = .ok (.getcfg 8) ∧
  decode (.word 0x90000000) = .error .reservedOpcode ∧ decode (.word 0x30000001) = .error .reservedField ∧
  decode (.word 0x20001101) = .error .reservedField ∧ decode (.word 0x68000001) = .error .reservedSelector ∧
  decode (.word 0x11000000) = .error .reservedField ∧ decode .strobe = .ok .tick

/-- R103: the pseudo-instructions `SETCFG sel, imm` with `sel` 0..7, which is SETBRT to SETGRY, and with `sel` 8..15, which decodes to
error 4; `GETSTAT`, which is GETCFG 8; and `FILL v`, which is `FB_LEN` WRB commands in ascending offsets. -/
def Obligations.PseudoInstructionsExpandToTheirCommands : Prop :=
  (∀ (sel : BitVec 4) (imm : Half) (f : Half → Instr),
    [Instr.setbrt, .setdrk, .setivl, .setord, .setlay, .setinv, .setilc, .setgry][sel.toNat]? = some f →
    decode (.word (pseudoSetcfg sel imm)) = .ok (f imm)) ∧
  (∀ (sel : BitVec 4) (imm : Half), 8 ≤ sel.toNat →
    decode (.word (pseudoSetcfg sel imm)) = .error .reservedSelector) ∧
  decode (.word pseudoGetstat) = .ok (.getcfg 8) ∧
  ∀ (c : WfCfgp) (v : Byte), (pseudoFill c.toCfgp v).length = c.fbLen ∧
    ∀ off, off < c.fbLen → ∃ (w : Word) (o : BitVec 16), (pseudoFill c.toCfgp v)[off]? = some w ∧ o.toNat = off ∧
      decode (.word w) = .ok (.wrb o v)

/-! ## The step -/

/-- A step runs the decoded instruction: a word at an open port in the producer's turn, the strobe in the scheduler's turn, and the
table word that `withFetchWord` places. Around `exec` the step takes the turn from the schedule and the word from the queue. The
schedule and the queue, how a table row's bits are read, and that `withFetchWord` places the input and opens the port, are the
model's choice (log entries 3, 10 and 6). -/
def Obligations.StepRunsTheDecodedInstruction : Prop :=
  (∀ (s : State) (w : Word) (ws : List Word) (ts : List Turn) (i : Instr),
    s.schedule = .producer :: ts → s.commands = w :: ws → s.cmdState = .idle → decode (.word w) = .ok i →
    step s = exec i { s with schedule := ts, commands := ws }) ∧
  (∀ (s : State) (ts : List Turn), s.schedule = .scheduler :: ts → step s = exec .tick { s with schedule := ts }) ∧
  (∀ (s : State) (nbits w : Nat) (i : Instr), decodeTableWord nbits w = some i →
    step (s.withFetchWord nbits w) = exec i (if i = .tick then s else { s with cmdState := .idle }))

/-- R92, R33: in every state but `IDLE` the port accepts nothing and no command has an effect. That `exec` of a command then answers the
same state is deduced (log entry 9); that the producer's turn passes while its words wait is the model's choice (log entry 3). -/
def Obligations.ClosedPortHoldsTheProducer : Prop :=
  ∀ s : State, s.cmdState ≠ .idle →
    s.cmdReady = false ∧
    (∀ ts, s.schedule = .producer :: ts → step s = .next { s with schedule := ts }) ∧
    (∀ i : Instr, i ≠ .tick → exec i s = .next s)

/-- R155, R252, U6: the block never stops. Every instruction and every step answers a next state, in every state. -/
def Obligations.EveryStepAnswersANextState : Prop :=
  (∀ (i : Instr) (s : State), ∃ t, exec i s = .next t) ∧ ∀ s : State, ∃ t, step s = .next t

/-- A step never changes the configuration record, so the geometry tables stay as they were built ("Pure data, no runtime
mutation", R47). -/
def Obligations.ConfigurationRecordIsConstant : Prop :=
  ∀ s t : State, step s = .next t → t.cfgp = s.cfgp

/-! ## Buffer access -/

/-- R231: NOP changes no state and does not respond; a nonzero bit in 27:0 is `error(2)`. -/
def Obligations.NopChangesNothing : Prop :=
  decode (.word 0x00000000) = .ok .nop ∧ (∀ s : State, s.cmdState = .idle → exec .nop s = .next s) ∧
  ∀ w : Word, w.toNat < 2 ^ 28 → w ≠ 0 → decode (.word w) = .error .reservedField

/-- R232, R230: WRB with a legal offset writes its byte at (`~front_sel`, `OFF`). Every other byte of both buffers reads as before
and nothing but the buffers changes. -/
def Obligations.WrbWritesOneByteOfTheBackBuffer : Prop :=
  ∀ (s : State) (off : BitVec 16) (data : Byte), s.cmdState = .idle → off.toNat < s.cfgp.fbLen →
    ∃ t, exec (.wrb off data) s = .next t ∧
      (∀ b o, t.bufRead b o = if (b, o) = (!s.frontSel, off.toNat) then data else s.bufRead b o) ∧
      t = { s with buf0 := t.buf0, buf1 := t.buf1 }

/-- R233, R96: RDB with a legal offset responds the byte at (`~front_sel`, `OFF`), zero-extended, and has no other effect. -/
def Obligations.RdbRespondsTheByteOfTheBackBuffer : Prop :=
  ∀ (s : State) (off : BitVec 16), s.cmdState = .idle → off.toNat < s.cfgp.fbLen →
    ∃ v : Half, v.toNat = (s.bufRead (!s.frontSel) off.toNat).toNat ∧
      exec (.rdb off) s = .next { s with responses := s.responses ++ [v] }

/-- R234 (b): a byte written by WRB is what RDB of the same offset responds, whatever ticks fall between. -/
def Obligations.RdbAfterWrbAndTicksRespondsTheWrittenByte : Prop :=
  ∀ (s : State) (off : BitVec 16) (data : Byte) (n : Nat), s.cmdState = .idle → off.toNat < s.cfgp.fbLen →
    ∃ t u, exec (.wrb off data) s = .next t ∧ exec (.rdb off) (ticks n t) = .next u ∧
      u.responses = s.responses ++ [BitVec.ofNat 16 data.toNat]

/-- R103, R232: the words of `FILL v`, taken in `FB_LEN` producer turns in a row, write `v` at every offset of the back buffer and
change nothing else; the front buffer reads as before. -/
def Obligations.FillWritesTheWholeBackBuffer : Prop :=
  ∀ (s : State) (v : Byte) (ws : List Word) (ts : List Turn), s.cmdState = .idle →
    s.commands = pseudoFill s.cfgp.toCfgp v ++ ws → s.schedule = List.replicate s.cfgp.fbLen .producer ++ ts →
    ∃ t, Host.Core.run Sys2Proof.core s.cfgp.fbLen s = .next t ∧
      (∀ off, off < s.cfgp.fbLen → t.bufRead (!s.frontSel) off = v) ∧
      (∀ off, t.bufRead s.frontSel off = s.bufRead s.frontSel off) ∧
      t = { s with schedule := ts, commands := ws, buf0 := t.buf0, buf1 := t.buf1 }

/-- The operand checks 3, 4 and 5 of R99 at the instructions they belong to: the command error with the code of R253, every register,
buffer byte and response as before (R67, R210, R205 to R209, R252). -/
def Obligations.IllegalOperandsRecordTheirErrorOnly : Prop :=
  ∀ s : State, s.cmdState = .idle →
    let e := fun code : BitVec 3 => { s with err := true, errcode := if s.err then s.errcode else code }
    (∀ (off : BitVec 16) (data : Byte), s.cfgp.fbLen ≤ off.toNat →
      exec (.wrb off data) s = .next (e 3) ∧ exec (.rdb off) s = .next (e 3)) ∧
    (∀ sel : BitVec 4, 9 ≤ sel.toNat → exec (.getcfg sel) s = .next (e 4)) ∧
    (∀ imm : Half, 1 < imm.toNat →
      exec (.setord imm) s = .next (e 5) ∧ exec (.setlay imm) s = .next (e 5) ∧ exec (.setinv imm) s = .next (e 5) ∧
      exec (.setilc imm) s = .next (e 5) ∧ exec (.setgry imm) s = .next (e 5))

/-! ## Configuration commands -/

/-- R211: clamp arithmetic. SETBRT and SETDRK store `IMM` if it is at most `PULSE_MAX`, else `PULSE_MAX`. SETIVL stores `IMM` if it is at
least `INTERVAL_MIN`, else `INTERVAL_MIN`. Every `IMM` is legal, nothing else changes, and setting the stored value again stores it
again. -/
def Obligations.PulseAndIntervalSettersClamp : Prop :=
  ∀ (s : State) (imm : Half), s.cmdState = .idle →
    (∃ v : Half, v.toNat = min imm.toNat s.cfgp.pulseMax.toNat ∧
      exec (.setbrt imm) s = .next { s with cfgBright := v } ∧
      exec (.setdrk imm) s = .next { s with cfgDark := v } ∧
      exec (.setbrt v) { s with cfgBright := v } = .next { s with cfgBright := v } ∧
      exec (.setdrk v) { s with cfgDark := v } = .next { s with cfgDark := v }) ∧
    (∃ v : Half, v.toNat = max imm.toNat s.cfgp.intervalMin.toNat ∧
      exec (.setivl imm) s = .next { s with cfgInterval := v } ∧
      exec (.setivl v) { s with cfgInterval := v } = .next { s with cfgInterval := v })

/-- R205 to R209, R39, R40: a 1-bit setter with a legal immediate writes its own register and nothing else. Bit order 0 is most
significant bit first and layout 0 is H; the other flags take the bit. -/
def Obligations.OneBitSettersWriteTheirRegister : Prop :=
  ∀ s : State, s.cmdState = .idle →
    exec (.setord 0) s = .next { s with cfgBitorder := .msbFirst } ∧
    exec (.setord 1) s = .next { s with cfgBitorder := .lsbFirst } ∧
    exec (.setlay 0) s = .next { s with cfgLayout := .h } ∧
    exec (.setlay 1) s = .next { s with cfgLayout := .v } ∧
    exec (.setinv 0) s = .next { s with cfgInvert := false } ∧
    exec (.setinv 1) s = .next { s with cfgInvert := true } ∧
    exec (.setilc 0) s = .next { s with cfgInterlace := false } ∧
    exec (.setilc 1) s = .next { s with cfgInterlace := true } ∧
    exec (.setgry 0) s = .next { s with cfgGrey := false } ∧
    exec (.setgry 1) s = .next { s with cfgGrey := true }

/-- R210, R36, R44, R96: GETCFG responds the stored value of its selector, 1-bit registers zero-extended, STATUS with `sync`,
`front_sel`, `err` and `errcode` at bits 0, 1, 2 and 5:3 and zero above; it has no other effect. -/
def Obligations.GetcfgRespondsTheSelectedRegister : Prop :=
  ∀ (s : State) (sel : BitVec 4) (v : Nat), s.cmdState = .idle →
    [s.cfgBright.toNat, s.cfgDark.toNat, s.cfgInterval.toNat, if s.cfgBitorder = .lsbFirst then 1 else 0,
      if s.cfgLayout = .v then 1 else 0, s.cfgInvert.toNat, s.cfgInterlace.toNat, s.cfgGrey.toNat,
      s.sync.toNat + 2 * s.frontSel.toNat + 4 * s.err.toNat + 8 * s.errcode.toNat][sel.toNat]? = some v →
    exec (.getcfg sel) s = .next { s with responses := s.responses ++ [BitVec.ofNat 16 v] }

/-! ## TICK -/

/-- R151: `lrow` advances by one modulo 18, and `phase` is complemented in the tick in which `lrow` goes from 17 to 0 and in no other,
whatever the configuration. -/
def Obligations.TickAdvancesTheRowAndTogglesThePhase : Prop :=
  ∀ s : State, ∃ t, exec .tick s = .next t ∧ t.lrow.val = (s.lrow.val + 1) % 18 ∧
    (s.lrow = 17 → t.lrow = 0 ∧ t.phase = !s.phase) ∧ (s.lrow ≠ 17 → t.phase = s.phase)

/-- R150, R152: `pprev` takes the row the tick serviced, and `prow` the entry of the Interlace Map for the new logical row when
`CFG.INTERLACE = 1`, the new logical row itself when it is 0. -/
def Obligations.TickWritesThePhysicalRows : Prop :=
  ∀ s : State, ∃ t, exec .tick s = .next t ∧ t.pprev = s.prow ∧
    (s.cfgInterlace = true → s.cfgp.imap[t.lrow.val]? = some t.prow) ∧ (s.cfgInterlace = false → t.prow = t.lrow)

/-- R153, R142: after a tick the sync flag is 1 if the tick serviced logical row 17 and 0 otherwise, whatever it was before. -/
def Obligations.TickRaisesSyncAfterTheLastRowOnly : Prop :=
  ∀ s : State, ∃ t, exec .tick s = .next t ∧ (s.lrow = 17 → t.sync = true) ∧ (s.lrow ≠ 17 → t.sync = false)

/-- R145: `apulse` is recomputed by the tick with `lrow = 0`, from `CFG.BRIGHT` in phase 0 and `CFG.DARK` in phase 1, whatever
`CFG.GREY`; every other tick keeps it. -/
def Obligations.TickRecomputesThePulseOnTheFirstRowOnly : Prop :=
  ∀ s : State, ∃ t, exec .tick s = .next t ∧
    (s.lrow = 0 → s.phase = false → t.apulse = s.cfgBright) ∧ (s.lrow = 0 → s.phase = true → t.apulse = s.cfgDark) ∧
    (s.lrow ≠ 0 → t.apulse = s.apulse)

/-- R140: what TICK writes. `front_sel`, the configuration registers, both buffers, `cmd_state`, `copy_idx`, `err`, `errcode`, the
responses and the inputs not yet taken are as before, and the trace only grows. -/
def Obligations.TickFrame : Prop :=
  ∀ s : State, ∃ t recs, exec .tick s = .next t ∧ t.trace = s.trace ++ recs ∧
    (∀ b o, t.bufRead b o = s.bufRead b o) ∧
    t = { s with lrow := t.lrow, prow := t.prow, pprev := t.pprev, phase := t.phase, sync := t.sync,
                 apulse := t.apulse, trace := t.trace }

/-- R147, R148, R143, R144, R146, R122: the records a tick emits, in the order `ORDER` gives, with the pulse width as the tick leaves
it. The sequence is COMPOSE of the source buffer (the back buffer when `CFG.GREY = 1` and `phase = 1`, else the front buffer), the
physical row, and the mask; the address row is the previous physical row when `ADDR_LAG = 1`. -/
def Obligations.TickEmitsItsRecordsInOrder : Prop :=
  ∀ s : State, ∃ t src mask arow addr, exec .tick s = .next t ∧
    (src = if s.cfgGrey = true ∧ s.phase = true then !s.frontSel else s.frontSel) ∧
    (mask = if s.cfgInvert = true then (0xFF : Byte) else 0x00) ∧
    (arow = if s.cfgp.addrLag = true then s.pprev else s.prow) ∧
    (s.cfgp.addrInline = true → addr = []) ∧
    (s.cfgp.addrInline = false → ∃ m, (s.cfgp.ram s.cfgBitorder)[arow.val]? = some m ∧ addr = [TxRecord.rowaddr m]) ∧
    (s.cfgp.order = .shiftThenLatch → t.trace = s.trace ++
      (.beginTx :: .shift (compose s src s.prow s.cfgLayout mask s.cfgBitorder arow) :: addr ++ [.latch, .illum t.apulse])) ∧
    (s.cfgp.order = .latchThenShift → t.trace = s.trace ++
      (.latch :: addr ++
        [.beginTx, .shift (compose s src s.prow s.cfgLayout mask s.cfgBitorder arow), .illum t.apulse]))

/-- R149: every tick emits exactly one `BEGIN`, one `SHIFT`, one `LATCH`, one `ILLUM`, and one `ROWADDR` if and only if
`ADDR_INLINE = 0`, with `BEGIN` immediately before `SHIFT`; records are told apart by the codes of R97. -/
def Obligations.TickEmitsEachRecordKindOnce : Prop :=
  ∀ s : State, ∃ t recs, exec .tick s = .next t ∧ t.trace = s.trace ++ recs ∧
    (recs.map TxRecord.code).count 0 = 1 ∧ (recs.map TxRecord.code).count 1 = 1 ∧
    (recs.map TxRecord.code).count 2 = 1 ∧ (recs.map TxRecord.code).count 3 = 1 ∧
    ((recs.map TxRecord.code).count 4 = if s.cfgp.addrInline = true then 0 else 1) ∧
    (recs.length = if s.cfgp.addrInline = true then 4 else 5) ∧
    ∃ before seq after, recs = before ++ .beginTx :: .shift seq :: after

/-- R154: with `CFG.INTERLACE` constant, after 18 ticks `lrow` and `prow` have their starting values, `phase` is complemented and `sync`
has been 1 after exactly one of the ticks; after 36 ticks `phase` too is back. The premise says the physical row was written under the
flag's present value. -/
def Obligations.EighteenTicksCloseTheCycle : Prop :=
  ∀ s : State, s.prow = s.cfgp.physRow s.cfgInterlace s.lrow →
    (ticks 18 s).lrow = s.lrow ∧ (ticks 18 s).prow = s.prow ∧ (ticks 18 s).phase = !s.phase ∧
    ((List.range 18).map fun n => (ticks (n + 1) s).sync).count true = 1 ∧ (ticks 36 s).phase = s.phase

/-- R156: with `CFG.INTERLACE` constant during a frame, its 18 ticks service each physical row exactly once: in the order 0..17 when the
flag is 0, in the order of the Interlace Map when it is 1. The premise says that the physical row too was written under the flag's
present value: by R152 it was written at the end of the tick before, and by R296 a flag changed since then need not give a
permutation. -/
def Obligations.FrameServicesEveryPhysicalRowOnce : Prop :=
  ∀ s : State, s.lrow = 0 → s.prow = s.cfgp.physRow s.cfgInterlace 0 →
    (s.cfgInterlace = false → servicedRows 18 s = List.finRange 18) ∧
    (s.cfgInterlace = true → servicedRows 18 s = s.cfgp.imap) ∧
    ∀ r : Row, (servicedRows 18 s).count r = 1

/-- R157, R144: with greyscale on and no swap, 36 ticks from `lrow = 0` read one buffer for the first 18 and the other for the last 18;
with greyscale off every tick reads the front buffer. -/
def Obligations.GreyscaleAlternatesTheSourcePerFrame : Prop :=
  ∀ s : State,
    (s.cfgGrey = true → s.lrow = 0 →
      servicedSources 36 s =
        List.replicate 18 (s.frontSel ^^ s.phase) ++ List.replicate 18 (!(s.frontSel ^^ s.phase))) ∧
    (s.cfgGrey = false → ∀ n, servicedSources n s = List.replicate n s.frontSel)

/-- R70: while `CFG.GREY = 0` the engine reads the front buffer only. Two machines that differ in nothing but their back buffers emit the
same trace over any number of ticks. -/
def Obligations.TicksDoNotSeeTheBackBufferWithoutGreyscale : Prop :=
  ∀ (n : Nat) (s t : State), s.cfgGrey = false →
    t = { s with buf0 := t.buf0, buf1 := t.buf1 } → t.buf s.frontSel = s.buf s.frontSel →
    (ticks n t).trace = (ticks n s).trace

/-! ## COMPOSE -/

/-- R120, R121, R123: the length of the sequence, its data bytes position by position, and the address byte, not inverted. -/
def Obligations.ComposeGivesTheMappedBytesAndTheAddress : Prop :=
  ∀ (s : State) (b : Bool) (p : Row) (l : Layout) (m : Byte) (o : BitOrder) (a : Row),
    (compose s b p l m o a).length = s.cfgp.rowBytes + (if s.cfgp.addrInline = true then 1 else 0) ∧
    (∀ i, i < s.cfgp.rowBytes → ∃ j, (s.cfgp.bsm l)[i]? = some j ∧
      (compose s b p l m o a)[i]? = some (s.bufRead b (j + p.val * s.cfgp.rowStride) ^^^ m)) ∧
    (s.cfgp.addrInline = true → (compose s b p l m o a)[s.cfgp.rowBytes]? = (s.cfgp.ram o)[a.val]?)

/-- R127: the data part is a permutation of the bytes of row `p`, each XOR the mask. -/
def Obligations.ComposePermutesTheRow : Prop :=
  ∀ (s : State) (b : Bool) (p : Row) (l : Layout) (m : Byte) (o : BitOrder) (a : Row),
    ((compose s b p l m o a).take s.cfgp.rowBytes).Perm
      ((List.range s.cfgp.rowBytes).map fun j => s.bufRead b (p.val * s.cfgp.rowBytes + j) ^^^ m)

/-- R127: a buffer row that is zero except its byte `j` gives, without inversion, that byte at the one position the Byte Selector Map
gives it, and zero at every other data position. -/
def Obligations.ComposeMovesASingleByteToItsPosition : Prop :=
  ∀ (s : State) (b : Bool) (p : Row) (l : Layout) (o : BitOrder) (a : Row) (j : Nat), j < s.cfgp.rowBytes →
    (∀ q, q < s.cfgp.rowBytes → q ≠ j → s.bufRead b (p.val * s.cfgp.rowBytes + q) = 0) →
    ∃ i, i < s.cfgp.rowBytes ∧ (s.cfgp.bsm l)[i]? = some j ∧
      (compose s b p l 0 o a)[i]? = some (s.bufRead b (p.val * s.cfgp.rowBytes + j)) ∧
      ∀ k, k < s.cfgp.rowBytes → k ≠ i → (compose s b p l 0 o a)[k]? = some 0

/-- R122, R123: inverting flips every data byte, inverting twice gives the original bytes, and the address byte is not touched. -/
def Obligations.ComposeInversionFlipsTheDataOnly : Prop :=
  ∀ (s : State) (b : Bool) (p : Row) (l : Layout) (o : BitOrder) (a : Row),
    let n := s.cfgp.rowBytes
    let plain := compose s b p l 0x00 o a
    let inverted := compose s b p l 0xFF o a
    inverted.take n = (plain.take n).map (fun v => 255 - v) ∧
    plain.take n = (inverted.take n).map (fun v => v ^^^ 0xFF) ∧ inverted.drop n = plain.drop n

/-- R128: the data part does not depend on the bit order or the address row, the address part not on the buffer, row, layout or mask, and
the whole not on any byte outside row `p`. -/
def Obligations.ComposeDependsOnItsRowOnly : Prop :=
  ∀ (s t : State) (b b' : Bool) (p p' : Row) (l l' : Layout) (m m' : Byte) (o o' : BitOrder) (a a' : Row),
    t.cfgp = s.cfgp →
    (compose s b p l m o a).take s.cfgp.rowBytes = (compose s b p l m o' a').take s.cfgp.rowBytes ∧
    (compose s b p l m o a).drop s.cfgp.rowBytes = (compose s b' p' l' m' o a).drop s.cfgp.rowBytes ∧
    ((∀ j, j < s.cfgp.rowBytes →
        t.bufRead b (p.val * s.cfgp.rowBytes + j) = s.bufRead b (p.val * s.cfgp.rowBytes + j)) →
      compose t b p l m o a = compose s b p l m o a)

/-- R61, R126: every offset the engine reads is inside the buffer, and the pairs of physical row and transmit position reach each offset
0..FB_LEN-1 exactly once. -/
def Obligations.FrameReadsEveryOffsetExactlyOnce : Prop :=
  ∀ (c : WfCfgp) (l : Layout),
    (∀ (p : Row) (i j : Nat), (c.bsm l)[i]? = some j → composeOffset c.toCfgp p j < c.fbLen ∧ c.fbLen - 1 ≤ 65535) ∧
    ∀ off, off < c.fbLen →
      ∃! pi : Row × Nat, ∃ j, (c.bsm l)[pi.2]? = some j ∧ composeOffset c.toCfgp pi.1 j = off

/-! ## The arbitrator and the copy engine -/

/-- R175, R177, R180: at an open port SWAP, SWAPC and WSYNC record their request and do nothing else. -/
def Obligations.SyncCommandsRecordTheirRequest : Prop :=
  ∀ s : State, s.cmdState = .idle →
    exec .swap s = .next { s with cmdState := .waitSwap } ∧
    exec .swapc s = .next { s with cmdState := .waitSwapc } ∧
    exec .wsync s = .next { s with cmdState := .waitSync }

/-- R176, R178, R181: the arbitrator's three steps, each enabled only while `sync = 1` and its command is pending. That the arbitrator's
turn passes when none is enabled is the model's choice (log entry 3). -/
def Obligations.ArbitratorActsInTheSyncWindowOnly : Prop :=
  ∀ (s : State) (ts : List Turn), s.schedule = .arbitrator :: ts →
    (s.sync = true → s.cmdState = .waitSwap →
      step s = .next { s with schedule := ts, frontSel := !s.frontSel, cmdState := .idle }) ∧
    (s.sync = true → s.cmdState = .waitSwapc →
      step s = .next { s with schedule := ts, frontSel := !s.frontSel, copyIdx := 0, cmdState := .copy }) ∧
    (s.sync = true → s.cmdState = .waitSync → step s = .next { s with schedule := ts, cmdState := .idle }) ∧
    (s.sync = false ∨ s.cmdState = .idle ∨ s.cmdState = .copy → step s = .next { s with schedule := ts })

/-- R179: COPY-BYTE moves the byte at `copy_idx` from the front to the back buffer and advances the index, or ends the copy. Every other
byte and every other register is as before, whatever `sync`. The step is enabled only while a copy runs; that the copy engine's turn
passes otherwise is the model's choice (log entry 3). -/
def Obligations.CopyEngineMovesOneByteOrEndsTheCopy : Prop :=
  ∀ (s : State) (ts : List Turn), s.schedule = .copyEngine :: ts →
    (s.cmdState = .copy → s.copyIdx.toNat < s.cfgp.fbLen →
      ∃ t, step s = .next t ∧ t.copyIdx.toNat = s.copyIdx.toNat + 1 ∧
        (∀ b o, t.bufRead b o =
          if (b, o) = (!s.frontSel, s.copyIdx.toNat) then s.bufRead s.frontSel s.copyIdx.toNat else s.bufRead b o) ∧
        t = { s with schedule := ts, copyIdx := t.copyIdx, buf0 := t.buf0, buf1 := t.buf1 }) ∧
    (s.cmdState = .copy → s.cfgp.fbLen ≤ s.copyIdx.toNat →
      step s = .next { s with schedule := ts, cmdState := .idle }) ∧
    (s.cmdState ≠ .copy → step s = .next { s with schedule := ts })

/-- R179: a copy left to run takes `FB_LEN` byte steps and one final step. It ends with the producer released, the designation unchanged,
and both buffers holding the front buffer's bytes. -/
def Obligations.CopyRunsToEqualBuffers : Prop :=
  ∀ (s : State) (ts : List Turn), s.cmdState = .copy → s.copyIdx = 0 →
    s.schedule = List.replicate (s.cfgp.fbLen + 1) .copyEngine ++ ts →
    ∃ t, Host.Core.run Sys2Proof.core (s.cfgp.fbLen + 1) s = .next t ∧ t.cmdState = .idle ∧ t.schedule = ts ∧
      t.frontSel = s.frontSel ∧ t.copyIdx.toNat = s.cfgp.fbLen ∧
      ∀ b off, off < s.cfgp.fbLen → t.bufRead b off = s.bufRead s.frontSel off

/-- R179: whatever steps fall between the copy's steps, the step that ends it leaves `BUF[0] = BUF[1]` byte for byte. -/
def Obligations.StepThatEndsTheCopyLeavesEqualBuffers : Prop :=
  ∀ s t : State, Inv s → s.cmdState = .copy → s.schedule.head? ≠ some .resetInput → step s = .next t → t.cmdState ≠ .copy →
    t.cmdState = .idle ∧ ∀ off, off < s.cfgp.fbLen → t.bufRead false off = t.bufRead true off

/-- R185 (a), R32, R75: apart from reset, `front_sel` changes only in the arbitrator's turn, with SWAP or SWAPC pending and `sync = 1`,
that is between the tick of logical row 17 and the tick of logical row 0. -/
def Obligations.DesignationChangesOnlyInTheSyncWindow : Prop :=
  ∀ s t : State, Inv s → step s = .next t → t.frontSel ≠ s.frontSel →
    s.schedule.head? = some .resetInput ∨
    (s.schedule.head? = some .arbitrator ∧ s.sync = true ∧ s.lrow = 0 ∧
      (s.cmdState = .waitSwap ∨ s.cmdState = .waitSwapc))

/-- R182: the sync flag is tested by level. A SWAP accepted while `sync = 1` completes at the arbitrator's next turn, in the same
window. -/
def Obligations.SwapInAnOpenWindowCompletesAtOnce : Prop :=
  ∀ (s : State) (ts : List Turn) (ws : List Word), s.cmdState = .idle → s.sync = true →
    s.schedule = .producer :: .arbitrator :: ts → s.commands = 0x30000000 :: ws →
    Host.Core.run Sys2Proof.core 2 s = .next { s with schedule := ts, commands := ws, frontSel := !s.frontSel }

/-- R183: with the arbitrator served in the first window that begins (the assumption `ARB_LATENCY < INTERVAL`, here a premise on the
schedule), a pending SWAP completes there: after the ticks that finish the frame, one arbitrator turn exchanges the designation and
releases the producer. -/
def Obligations.PendingSwapCompletesInTheNextWindow : Prop :=
  ∀ (s : State) (ts : List Turn), s.cmdState = .waitSwap →
    s.schedule = List.replicate (18 - s.lrow.val) .scheduler ++ .arbitrator :: ts →
    ∃ t, Host.Core.run Sys2Proof.core (19 - s.lrow.val) s = .next t ∧ t.cmdState = .idle ∧ t.frontSel = !s.frontSel ∧
      t.sync = true ∧ t.lrow = 0 ∧ t.schedule = ts ∧ t.commands = s.commands

/-- R183, R184, R290: a wait that no tick ends never ends. Outside a sync window, and with neither a tick nor reset coming, a pending
command stays pending for any number of steps and the producer's words stay unaccepted. That a turn with no enabled step passes, and
that an empty schedule is idle, is the model's choice (log entry 3). -/
def Obligations.PendingCommandWaitsForeverWithoutTicks : Prop :=
  ∀ (n : Nat) (s : State), s.sync = false →
    (s.cmdState = .waitSwap ∨ s.cmdState = .waitSwapc ∨ s.cmdState = .waitSync) →
    (∀ t ∈ s.schedule, t ≠ .scheduler ∧ t ≠ .resetInput) →
    Host.Core.run Sys2Proof.core n s = .next { s with schedule := s.schedule.drop n }

/-! ## Who may write what -/

/-- R261: the engine registers and the sync flag are written by the scheduler's turn (and reset) alone. -/
def Obligations.EngineRegistersChangeInTicksOnly : Prop :=
  ∀ s t : State, step s = .next t → s.schedule.head? ≠ some .scheduler → s.schedule.head? ≠ some .resetInput →
    t.lrow = s.lrow ∧ t.prow = s.prow ∧ t.pprev = s.pprev ∧ t.phase = s.phase ∧ t.sync = s.sync ∧ t.apulse = s.apulse ∧
    t.trace = s.trace

/-- R261, R45: the configuration registers, the error record and the responses are written by the producer's turn (and reset) alone, and
one turn writes at most one configuration register. -/
def Obligations.ConfigurationChangesInProducerTurnsOnly : Prop :=
  ∀ s t : State, step s = .next t → s.schedule.head? ≠ some .resetInput →
    (s.schedule.head? ≠ some .producer →
      t.cfgBright = s.cfgBright ∧ t.cfgDark = s.cfgDark ∧ t.cfgInterval = s.cfgInterval ∧ t.cfgBitorder = s.cfgBitorder ∧
      t.cfgLayout = s.cfgLayout ∧ t.cfgInvert = s.cfgInvert ∧ t.cfgInterlace = s.cfgInterlace ∧ t.cfgGrey = s.cfgGrey ∧
      t.err = s.err ∧ t.errcode = s.errcode ∧ t.responses = s.responses) ∧
    [decide (t.cfgBright ≠ s.cfgBright), decide (t.cfgDark ≠ s.cfgDark), decide (t.cfgInterval ≠ s.cfgInterval),
      decide (t.cfgBitorder ≠ s.cfgBitorder), decide (t.cfgLayout ≠ s.cfgLayout), decide (t.cfgInvert ≠ s.cfgInvert),
      decide (t.cfgInterlace ≠ s.cfgInterlace), decide (t.cfgGrey ≠ s.cfgGrey)].count true ≤ 1

/-- R70, R71: no step writes the buffer that is the front buffer when it begins; what is front keeps every byte. -/
def Obligations.NoStepWritesTheFrontBuffer : Prop :=
  ∀ s t : State, step s = .next t → ∀ off, t.bufRead s.frontSel off = s.bufRead s.frontSel off

/-- R252, R35: the error record is sticky. No step but reset clears `err` or changes the code of the first error. -/
def Obligations.ErrorRecordIsStickyUntilReset : Prop :=
  ∀ s t : State, step s = .next t → s.schedule.head? ≠ some .resetInput → s.err = true →
    t.err = true ∧ t.errcode = s.errcode

/-! ## Reset and the invariants -/

/-- R50: the state after reset, for every configuration record: every register at its value and the trace empty. The buffer bytes are
unspecified there; that each reads as a free value drawn for it, and that reading it is no fault, is the model's choice (log
entry 4). -/
def Obligations.ResetValues : Prop :=
  ∀ c : WfCfgp,
    let s := State.resetOf c
    s.lrow = 0 ∧ (c.rstInterlace = false → s.prow = 0 ∧ s.pprev = 17) ∧
    (c.rstInterlace = true → c.imap[0]? = some s.prow ∧ c.imap[17]? = some s.pprev) ∧
    s.phase = false ∧ s.sync = false ∧ s.apulse = 0 ∧ s.frontSel = false ∧ s.cmdState = .idle ∧ s.copyIdx = 0 ∧
    s.err = false ∧ s.errcode = 0 ∧ s.cfgBright = 0 ∧ s.cfgDark = 0 ∧ s.cfgInterval = c.intervalMin ∧
    s.cfgBitorder = .msbFirst ∧ s.cfgLayout = .h ∧ s.cfgInvert = false ∧ s.cfgInterlace = c.rstInterlace ∧
    s.cfgGrey = false ∧ (∀ b off, s.bufRead b off = Config.powerUpByte b off) ∧ s.trace = []

/-- R280: applying reset is one step that puts every register at its reset value and keeps the frame buffers. That the words and turns
not yet taken stay, and that the record of responses begins anew, is the model's choice (log entry 7). -/
def Obligations.ResetTurnRestoresTheRegistersAndKeepsTheBuffers : Prop :=
  ∀ (s : State) (ts : List Turn), s.schedule = .resetInput :: ts →
    ∃ t, step s = .next t ∧ (∀ b off, t.bufRead b off = s.bufRead b off) ∧
      t = { State.resetOf s.cfgp with buf0 := t.buf0, buf1 := t.buf1, schedule := ts, commands := s.commands }

/-- R281: the state after reset satisfies the invariants, for every configuration record; so does the default machine's. -/
def Obligations.InvariantsHoldAfterReset : Prop :=
  (∀ c : WfCfgp, Inv (State.resetOf c)) ∧ Inv State.reset

/-- Every step keeps the invariants (R26, R28, R30, R34, R36, R46, R97, R253), from every state that meets them. -/
def Obligations.EveryStepKeepsTheInvariants : Prop :=
  ∀ s t : State, Inv s → step s = .next t → Inv t

/-- A run from any state that meets the invariants, under any schedule and any command words, never stops and meets them
throughout. -/
def Obligations.EveryRunIsSafe : Prop :=
  ∀ s : State, Inv s → SafeFrom s
end

