-- ==== Sys2Proof/Laws/Encoding.lean ====
section
/-! SUPPORT. The fields of a command word as numbers, and the number of a word built from its fields; facts about formats then follow by linear arithmetic. -/

namespace Sys2Proof

/-- Concatenation as a number. -/
theorem toNat_append_eq {m n : Nat} (x : BitVec m) (y : BitVec n) : (x ++ y).toNat = x.toNat * 2 ^ n + y.toNat := by
  rw [BitVec.toNat_append, ← Nat.shiftLeft_add_eq_or_of_lt y.isLt, Nat.shiftLeft_eq]

theorem toNat_formatZ (op : BitVec 4) : (formatZ op).toNat = op.toNat * 2 ^ 28 := by
  change (op ++ 0#28 : BitVec (4 + 28)).toNat = _
  rw [toNat_append_eq, BitVec.toNat_zero, Nat.add_zero]

theorem toNat_formatM (op : BitVec 4) (off : BitVec 16) (data : Byte) :
    (formatM op off data).toNat = op.toNat * 2 ^ 28 + off.toNat * 2 ^ 8 + data.toNat := by
  change (op ++ 0#4 ++ off ++ data : BitVec (4 + 4 + 16 + 8)).toNat = _
  simp only [toNat_append_eq, BitVec.toNat_zero]
  omega

theorem toNat_formatC (op sel : BitVec 4) (imm : Half) :
    (formatC op sel imm).toNat = op.toNat * 2 ^ 28 + sel.toNat * 2 ^ 24 + imm.toNat := by
  change (op ++ sel ++ 0#8 ++ imm : BitVec (4 + 4 + 8 + 16)).toNat = _
  simp only [toNat_append_eq, BitVec.toNat_zero]
  omega

namespace Word

theorem toNat_op (w : Word) : (op w).toNat = w.toNat / 2 ^ 28 := by
  have := w.isLt
  simp only [op, BitVec.extractLsb'_toNat, Nat.shiftRight_eq_div_pow]
  omega

theorem toNat_restZ (w : Word) : (restZ w).toNat = w.toNat % 2 ^ 28 := by
  simp [restZ, BitVec.extractLsb'_toNat]

theorem toNat_sel (w : Word) : (sel w).toNat = w.toNat / 2 ^ 24 % 16 := by
  simp [sel, BitVec.extractLsb'_toNat, Nat.shiftRight_eq_div_pow]

theorem toNat_off (w : Word) : (off w).toNat = w.toNat / 2 ^ 8 % 2 ^ 16 := by
  simp [off, BitVec.extractLsb'_toNat, Nat.shiftRight_eq_div_pow]

theorem toNat_data (w : Word) : (data w).toNat = w.toNat % 2 ^ 8 := by
  simp [data, BitVec.extractLsb'_toNat]

theorem toNat_mbzC (w : Word) : (mbzC w).toNat = w.toNat / 2 ^ 16 % 2 ^ 8 := by
  simp [mbzC, BitVec.extractLsb'_toNat, Nat.shiftRight_eq_div_pow]

theorem toNat_imm (w : Word) : (imm w).toNat = w.toNat % 2 ^ 16 := by
  simp [imm, BitVec.extractLsb'_toNat]

end Word

/-- The fields of a format M word are what it was built from. -/
theorem fields_formatM (op : BitVec 4) (off : BitVec 16) (data : Byte) :
    Word.op (formatM op off data) = op ∧ Word.sel (formatM op off data) = 0#4 ∧
    Word.off (formatM op off data) = off ∧ Word.data (formatM op off data) = data := by
  have := op.isLt
  have := off.isLt
  have := data.isLt
  refine ⟨?_, ?_, ?_, ?_⟩ <;> apply BitVec.eq_of_toNat_eq <;>
    simp only [Word.toNat_op, Word.toNat_sel, Word.toNat_off, Word.toNat_data, toNat_formatM, BitVec.toNat_ofNat] <;> omega

/-- The fields of a format C word are what it was built from. -/
theorem fields_formatC (op sel : BitVec 4) (imm : Half) :
    Word.op (formatC op sel imm) = op ∧ Word.sel (formatC op sel imm) = sel ∧
    Word.mbzC (formatC op sel imm) = 0#8 ∧ Word.imm (formatC op sel imm) = imm := by
  have := op.isLt
  have := sel.isLt
  have := imm.isLt
  refine ⟨?_, ?_, ?_, ?_⟩ <;> apply BitVec.eq_of_toNat_eq <;>
    simp only [Word.toNat_op, Word.toNat_sel, Word.toNat_mbzC, Word.toNat_imm, toNat_formatC, BitVec.toNat_ofNat] <;> omega

/-- A bit vector is zero exactly when its number is. -/
theorem bitVec_eq_zero_iff {n : Nat} (x : BitVec n) : x = 0 ↔ x.toNat = 0 := by
  simp [← BitVec.toNat_inj]

end Sys2Proof
end

