-- ==== Sys2Proof/Laws/Memory.lean ====
section
/-! SUPPORT. The laws of a frame buffer's list of written bytes: read after write, the canonical form, and that equal memories are equal lists. -/

namespace Sys2Proof.Machine.Memory

@[simp] theorem read_nil (a : Nat) : Memory.read [] a = none := rfl

theorem read_cons (x : Nat) (v : Byte) (m : Memory) (a : Nat) :
    Memory.read ((x, v) :: m) a = if x = a then some v else Memory.read m a := rfl

@[simp] theorem read_write_same (m : Memory) (a : Nat) (v : Byte) : (Memory.write m a v).read a = some v := by
  induction m with
  | nil => simp [Memory.write, Memory.read]
  | cons c m ih =>
    obtain ⟨x, w⟩ := c
    simp only [Memory.write]
    split_ifs with h1 h2
    · simp [Memory.read]
    · simp [Memory.read]
    · simp [Memory.read, h2, ih]

theorem read_write_other (m : Memory) {a b : Nat} (v : Byte) (h : a ≠ b) :
    (Memory.write m a v).read b = m.read b := by
  induction m with
  | nil => simp [Memory.write, Memory.read, h]
  | cons c m ih =>
    obtain ⟨x, w⟩ := c
    simp only [Memory.write]
    split_ifs with h1 h2
    · simp [Memory.read, h]
    · subst h2; simp [Memory.read, h]
    · simp [Memory.read, ih]

theorem read_write (m : Memory) (a b : Nat) (v : Byte) :
    (Memory.write m a v).read b = if a = b then some v else m.read b := by
  split_ifs with h
  · subst h; simp
  · exact read_write_other m v h

theorem mem_write {m : Memory} {a : Nat} {v : Byte} {c : Host.Cell} (h : c ∈ Memory.write m a v) :
    c = (a, v) ∨ c ∈ m := by
  induction m with
  | nil => simpa [Memory.write] using h
  | cons d m ih =>
    obtain ⟨x, w⟩ := d
    simp only [Memory.write] at h
    split_ifs at h with h1 h2
    · simpa using h
    · rcases List.mem_cons.1 h with rfl | h
      · exact .inl rfl
      · exact .inr (List.mem_cons_of_mem _ h)
    · rcases List.mem_cons.1 h with rfl | h
      · simp
      · rcases ih h with rfl | h
        · exact .inl rfl
        · exact .inr (List.mem_cons_of_mem _ h)

/-- A write keeps the canonical form. -/
theorem wf_write {m : Memory} (a : Nat) (v : Byte) (h : m.wf) : (Memory.write m a v).wf := by
  induction m with
  | nil => simp [Memory.write, Memory.wf]
  | cons c m ih =>
    obtain ⟨x, w⟩ := c
    obtain ⟨hx, hm⟩ := List.pairwise_cons.1 h
    simp only [Memory.write]
    split_ifs with h1 h2
    · refine List.pairwise_cons.2 ⟨fun c hc => ?_, h⟩
      rcases List.mem_cons.1 hc with rfl | hc
      · exact h1
      · exact h1.trans (hx c hc)
    · subst h2
      exact List.pairwise_cons.2 ⟨hx, hm⟩
    · refine List.pairwise_cons.2 ⟨fun c hc => ?_, ih hm⟩
      rcases mem_write hc with rfl | hc
      · exact Nat.lt_of_le_of_ne (Nat.le_of_not_lt h1) h2
      · exact hx c hc

theorem read_eq_none_of_lt {m : Memory} {a : Nat} (h : ∀ c ∈ m, a < c.1) : m.read a = none := by
  induction m with
  | nil => rfl
  | cons c m ih =>
    obtain ⟨x, w⟩ := c
    have hx : a < x := h (x, w) (by simp)
    simp [Memory.read, Nat.ne_of_gt hx, ih fun c hc => h c (List.mem_cons_of_mem _ hc)]

/-- Two memories in canonical form that hold the same written bytes are the same list. -/
theorem ext_of_wf {m n : Memory} (hm : m.wf) (hn : n.wf) (h : ∀ a, m.read a = n.read a) : m = n := by
  induction m generalizing n with
  | nil =>
    cases n with
    | nil => rfl
    | cons c n => simpa [Memory.read] using h c.1
  | cons c m ih =>
    obtain ⟨x, v⟩ := c
    obtain ⟨hx, hm'⟩ := List.pairwise_cons.1 hm
    cases n with
    | nil => simpa [Memory.read] using h x
    | cons d n =>
      obtain ⟨y, w⟩ := d
      obtain ⟨hy, hn'⟩ := List.pairwise_cons.1 hn
      have hxy : x = y := by
        rcases Nat.lt_trichotomy x y with hlt | heq | hgt
        · have := h x
          simp [Memory.read, Nat.ne_of_gt hlt,
            read_eq_none_of_lt (m := n) (a := x) fun c hc => hlt.trans (hy c hc)] at this
        · exact heq
        · have := h y
          simp [Memory.read, Nat.ne_of_gt hgt,
            read_eq_none_of_lt (m := m) (a := y) fun c hc => hgt.trans (hx c hc)] at this
      subst hxy
      have hv : v = w := by simpa [Memory.read] using h x
      subst hv
      congr 1
      refine ih hm' hn' fun a => ?_
      by_cases hxa : x = a
      · subst hxa
        rw [read_eq_none_of_lt fun c hc => hx c hc, read_eq_none_of_lt fun c hc => hy c hc]
      · simpa [Memory.read, hxa] using h a

end Sys2Proof.Machine.Memory
end

