-- ==== Sys2Proof/Laws/State.lean ====
section
/-! SUPPORT. One lemma per field per named update of the state, and the reads of a buffer after each. -/

namespace Sys2Proof.Machine.State

@[simp] theorem respond_cfgp (s : State) (v : Half) : (s.respond v).cfgp = s.cfgp := rfl
@[simp] theorem respond_lrow (s : State) (v : Half) : (s.respond v).lrow = s.lrow := rfl
@[simp] theorem respond_prow (s : State) (v : Half) : (s.respond v).prow = s.prow := rfl
@[simp] theorem respond_pprev (s : State) (v : Half) : (s.respond v).pprev = s.pprev := rfl
@[simp] theorem respond_phase (s : State) (v : Half) : (s.respond v).phase = s.phase := rfl
@[simp] theorem respond_sync (s : State) (v : Half) : (s.respond v).sync = s.sync := rfl
@[simp] theorem respond_apulse (s : State) (v : Half) : (s.respond v).apulse = s.apulse := rfl
@[simp] theorem respond_frontSel (s : State) (v : Half) : (s.respond v).frontSel = s.frontSel := rfl
@[simp] theorem respond_cmdState (s : State) (v : Half) : (s.respond v).cmdState = s.cmdState := rfl
@[simp] theorem respond_copyIdx (s : State) (v : Half) : (s.respond v).copyIdx = s.copyIdx := rfl
@[simp] theorem respond_err (s : State) (v : Half) : (s.respond v).err = s.err := rfl
@[simp] theorem respond_errcode (s : State) (v : Half) : (s.respond v).errcode = s.errcode := rfl
@[simp] theorem respond_cfgBright (s : State) (v : Half) : (s.respond v).cfgBright = s.cfgBright := rfl
@[simp] theorem respond_cfgDark (s : State) (v : Half) : (s.respond v).cfgDark = s.cfgDark := rfl
@[simp] theorem respond_cfgInterval (s : State) (v : Half) : (s.respond v).cfgInterval = s.cfgInterval := rfl
@[simp] theorem respond_cfgBitorder (s : State) (v : Half) : (s.respond v).cfgBitorder = s.cfgBitorder := rfl
@[simp] theorem respond_cfgLayout (s : State) (v : Half) : (s.respond v).cfgLayout = s.cfgLayout := rfl
@[simp] theorem respond_cfgInvert (s : State) (v : Half) : (s.respond v).cfgInvert = s.cfgInvert := rfl
@[simp] theorem respond_cfgInterlace (s : State) (v : Half) : (s.respond v).cfgInterlace = s.cfgInterlace := rfl
@[simp] theorem respond_cfgGrey (s : State) (v : Half) : (s.respond v).cfgGrey = s.cfgGrey := rfl
@[simp] theorem respond_buf0 (s : State) (v : Half) : (s.respond v).buf0 = s.buf0 := rfl
@[simp] theorem respond_buf1 (s : State) (v : Half) : (s.respond v).buf1 = s.buf1 := rfl
@[simp] theorem respond_trace (s : State) (v : Half) : (s.respond v).trace = s.trace := rfl
@[simp] theorem respond_responses (s : State) (v : Half) : (s.respond v).responses = s.responses ++ [v] := rfl
@[simp] theorem respond_commands (s : State) (v : Half) : (s.respond v).commands = s.commands := rfl
@[simp] theorem respond_schedule (s : State) (v : Half) : (s.respond v).schedule = s.schedule := rfl

@[simp] theorem emit_cfgp (s : State) (es : List TxRecord) : (s.emit es).cfgp = s.cfgp := rfl
@[simp] theorem emit_lrow (s : State) (es : List TxRecord) : (s.emit es).lrow = s.lrow := rfl
@[simp] theorem emit_prow (s : State) (es : List TxRecord) : (s.emit es).prow = s.prow := rfl
@[simp] theorem emit_pprev (s : State) (es : List TxRecord) : (s.emit es).pprev = s.pprev := rfl
@[simp] theorem emit_phase (s : State) (es : List TxRecord) : (s.emit es).phase = s.phase := rfl
@[simp] theorem emit_sync (s : State) (es : List TxRecord) : (s.emit es).sync = s.sync := rfl
@[simp] theorem emit_apulse (s : State) (es : List TxRecord) : (s.emit es).apulse = s.apulse := rfl
@[simp] theorem emit_frontSel (s : State) (es : List TxRecord) : (s.emit es).frontSel = s.frontSel := rfl
@[simp] theorem emit_cmdState (s : State) (es : List TxRecord) : (s.emit es).cmdState = s.cmdState := rfl
@[simp] theorem emit_copyIdx (s : State) (es : List TxRecord) : (s.emit es).copyIdx = s.copyIdx := rfl
@[simp] theorem emit_err (s : State) (es : List TxRecord) : (s.emit es).err = s.err := rfl
@[simp] theorem emit_errcode (s : State) (es : List TxRecord) : (s.emit es).errcode = s.errcode := rfl
@[simp] theorem emit_cfgBright (s : State) (es : List TxRecord) : (s.emit es).cfgBright = s.cfgBright := rfl
@[simp] theorem emit_cfgDark (s : State) (es : List TxRecord) : (s.emit es).cfgDark = s.cfgDark := rfl
@[simp] theorem emit_cfgInterval (s : State) (es : List TxRecord) : (s.emit es).cfgInterval = s.cfgInterval := rfl
@[simp] theorem emit_cfgBitorder (s : State) (es : List TxRecord) : (s.emit es).cfgBitorder = s.cfgBitorder := rfl
@[simp] theorem emit_cfgLayout (s : State) (es : List TxRecord) : (s.emit es).cfgLayout = s.cfgLayout := rfl
@[simp] theorem emit_cfgInvert (s : State) (es : List TxRecord) : (s.emit es).cfgInvert = s.cfgInvert := rfl
@[simp] theorem emit_cfgInterlace (s : State) (es : List TxRecord) : (s.emit es).cfgInterlace = s.cfgInterlace := rfl
@[simp] theorem emit_cfgGrey (s : State) (es : List TxRecord) : (s.emit es).cfgGrey = s.cfgGrey := rfl
@[simp] theorem emit_buf0 (s : State) (es : List TxRecord) : (s.emit es).buf0 = s.buf0 := rfl
@[simp] theorem emit_buf1 (s : State) (es : List TxRecord) : (s.emit es).buf1 = s.buf1 := rfl
@[simp] theorem emit_trace (s : State) (es : List TxRecord) : (s.emit es).trace = s.trace ++ es := rfl
@[simp] theorem emit_responses (s : State) (es : List TxRecord) : (s.emit es).responses = s.responses := rfl
@[simp] theorem emit_commands (s : State) (es : List TxRecord) : (s.emit es).commands = s.commands := rfl
@[simp] theorem emit_schedule (s : State) (es : List TxRecord) : (s.emit es).schedule = s.schedule := rfl

@[simp] theorem error_cfgp (s : State) (c : ErrCode) : (s.error c).cfgp = s.cfgp := rfl
@[simp] theorem error_lrow (s : State) (c : ErrCode) : (s.error c).lrow = s.lrow := rfl
@[simp] theorem error_prow (s : State) (c : ErrCode) : (s.error c).prow = s.prow := rfl
@[simp] theorem error_pprev (s : State) (c : ErrCode) : (s.error c).pprev = s.pprev := rfl
@[simp] theorem error_phase (s : State) (c : ErrCode) : (s.error c).phase = s.phase := rfl
@[simp] theorem error_sync (s : State) (c : ErrCode) : (s.error c).sync = s.sync := rfl
@[simp] theorem error_apulse (s : State) (c : ErrCode) : (s.error c).apulse = s.apulse := rfl
@[simp] theorem error_frontSel (s : State) (c : ErrCode) : (s.error c).frontSel = s.frontSel := rfl
@[simp] theorem error_cmdState (s : State) (c : ErrCode) : (s.error c).cmdState = s.cmdState := rfl
@[simp] theorem error_copyIdx (s : State) (c : ErrCode) : (s.error c).copyIdx = s.copyIdx := rfl
@[simp] theorem error_err (s : State) (c : ErrCode) : (s.error c).err = true := rfl
@[simp] theorem error_errcode (s : State) (c : ErrCode) : (s.error c).errcode = if s.err then s.errcode else c.code := rfl
@[simp] theorem error_cfgBright (s : State) (c : ErrCode) : (s.error c).cfgBright = s.cfgBright := rfl
@[simp] theorem error_cfgDark (s : State) (c : ErrCode) : (s.error c).cfgDark = s.cfgDark := rfl
@[simp] theorem error_cfgInterval (s : State) (c : ErrCode) : (s.error c).cfgInterval = s.cfgInterval := rfl
@[simp] theorem error_cfgBitorder (s : State) (c : ErrCode) : (s.error c).cfgBitorder = s.cfgBitorder := rfl
@[simp] theorem error_cfgLayout (s : State) (c : ErrCode) : (s.error c).cfgLayout = s.cfgLayout := rfl
@[simp] theorem error_cfgInvert (s : State) (c : ErrCode) : (s.error c).cfgInvert = s.cfgInvert := rfl
@[simp] theorem error_cfgInterlace (s : State) (c : ErrCode) : (s.error c).cfgInterlace = s.cfgInterlace := rfl
@[simp] theorem error_cfgGrey (s : State) (c : ErrCode) : (s.error c).cfgGrey = s.cfgGrey := rfl
@[simp] theorem error_buf0 (s : State) (c : ErrCode) : (s.error c).buf0 = s.buf0 := rfl
@[simp] theorem error_buf1 (s : State) (c : ErrCode) : (s.error c).buf1 = s.buf1 := rfl
@[simp] theorem error_trace (s : State) (c : ErrCode) : (s.error c).trace = s.trace := rfl
@[simp] theorem error_responses (s : State) (c : ErrCode) : (s.error c).responses = s.responses := rfl
@[simp] theorem error_commands (s : State) (c : ErrCode) : (s.error c).commands = s.commands := rfl
@[simp] theorem error_schedule (s : State) (c : ErrCode) : (s.error c).schedule = s.schedule := rfl

@[simp] theorem bufWrite_cfgp (s : State) (b : Bool) (off : Nat) (v : Byte) : (s.bufWrite b off v).cfgp = s.cfgp := by
  cases b <;> rfl
@[simp] theorem bufWrite_lrow (s : State) (b : Bool) (off : Nat) (v : Byte) : (s.bufWrite b off v).lrow = s.lrow := by
  cases b <;> rfl
@[simp] theorem bufWrite_prow (s : State) (b : Bool) (off : Nat) (v : Byte) : (s.bufWrite b off v).prow = s.prow := by
  cases b <;> rfl
@[simp] theorem bufWrite_pprev (s : State) (b : Bool) (off : Nat) (v : Byte) : (s.bufWrite b off v).pprev = s.pprev := by
  cases b <;> rfl
@[simp] theorem bufWrite_phase (s : State) (b : Bool) (off : Nat) (v : Byte) : (s.bufWrite b off v).phase = s.phase := by
  cases b <;> rfl
@[simp] theorem bufWrite_sync (s : State) (b : Bool) (off : Nat) (v : Byte) : (s.bufWrite b off v).sync = s.sync := by
  cases b <;> rfl
@[simp] theorem bufWrite_apulse (s : State) (b : Bool) (off : Nat) (v : Byte) : (s.bufWrite b off v).apulse = s.apulse := by
  cases b <;> rfl
@[simp] theorem bufWrite_frontSel (s : State) (b : Bool) (off : Nat) (v : Byte) : (s.bufWrite b off v).frontSel = s.frontSel := by
  cases b <;> rfl
@[simp] theorem bufWrite_cmdState (s : State) (b : Bool) (off : Nat) (v : Byte) : (s.bufWrite b off v).cmdState = s.cmdState := by
  cases b <;> rfl
@[simp] theorem bufWrite_copyIdx (s : State) (b : Bool) (off : Nat) (v : Byte) : (s.bufWrite b off v).copyIdx = s.copyIdx := by
  cases b <;> rfl
@[simp] theorem bufWrite_err (s : State) (b : Bool) (off : Nat) (v : Byte) : (s.bufWrite b off v).err = s.err := by
  cases b <;> rfl
@[simp] theorem bufWrite_errcode (s : State) (b : Bool) (off : Nat) (v : Byte) : (s.bufWrite b off v).errcode = s.errcode := by
  cases b <;> rfl
@[simp] theorem bufWrite_cfgBright (s : State) (b : Bool) (off : Nat) (v : Byte) : (s.bufWrite b off v).cfgBright = s.cfgBright := by
  cases b <;> rfl
@[simp] theorem bufWrite_cfgDark (s : State) (b : Bool) (off : Nat) (v : Byte) : (s.bufWrite b off v).cfgDark = s.cfgDark := by
  cases b <;> rfl
@[simp] theorem bufWrite_cfgInterval (s : State) (b : Bool) (off : Nat) (v : Byte) : (s.bufWrite b off v).cfgInterval = s.cfgInterval := by
  cases b <;> rfl
@[simp] theorem bufWrite_cfgBitorder (s : State) (b : Bool) (off : Nat) (v : Byte) : (s.bufWrite b off v).cfgBitorder = s.cfgBitorder := by
  cases b <;> rfl
@[simp] theorem bufWrite_cfgLayout (s : State) (b : Bool) (off : Nat) (v : Byte) : (s.bufWrite b off v).cfgLayout = s.cfgLayout := by
  cases b <;> rfl
@[simp] theorem bufWrite_cfgInvert (s : State) (b : Bool) (off : Nat) (v : Byte) : (s.bufWrite b off v).cfgInvert = s.cfgInvert := by
  cases b <;> rfl
@[simp] theorem bufWrite_cfgInterlace (s : State) (b : Bool) (off : Nat) (v : Byte) : (s.bufWrite b off v).cfgInterlace = s.cfgInterlace := by
  cases b <;> rfl
@[simp] theorem bufWrite_cfgGrey (s : State) (b : Bool) (off : Nat) (v : Byte) : (s.bufWrite b off v).cfgGrey = s.cfgGrey := by
  cases b <;> rfl
@[simp] theorem bufWrite_trace (s : State) (b : Bool) (off : Nat) (v : Byte) : (s.bufWrite b off v).trace = s.trace := by
  cases b <;> rfl
@[simp] theorem bufWrite_responses (s : State) (b : Bool) (off : Nat) (v : Byte) : (s.bufWrite b off v).responses = s.responses := by
  cases b <;> rfl
@[simp] theorem bufWrite_commands (s : State) (b : Bool) (off : Nat) (v : Byte) : (s.bufWrite b off v).commands = s.commands := by
  cases b <;> rfl
@[simp] theorem bufWrite_schedule (s : State) (b : Bool) (off : Nat) (v : Byte) : (s.bufWrite b off v).schedule = s.schedule := by
  cases b <;> rfl

@[simp] theorem tick_cfgp (s : State) : (s.tick).cfgp = s.cfgp := rfl
@[simp] theorem tick_lrow (s : State) : (s.tick).lrow = s.nextRow := rfl
@[simp] theorem tick_prow (s : State) : (s.tick).prow = s.nextPhysRow := rfl
@[simp] theorem tick_pprev (s : State) : (s.tick).pprev = s.prow := rfl
@[simp] theorem tick_phase (s : State) : (s.tick).phase = s.nextPhase := rfl
@[simp] theorem tick_sync (s : State) : (s.tick).sync = s.nextSync := rfl
@[simp] theorem tick_apulse (s : State) : (s.tick).apulse = s.nextPulse := rfl
@[simp] theorem tick_frontSel (s : State) : (s.tick).frontSel = s.frontSel := rfl
@[simp] theorem tick_cmdState (s : State) : (s.tick).cmdState = s.cmdState := rfl
@[simp] theorem tick_copyIdx (s : State) : (s.tick).copyIdx = s.copyIdx := rfl
@[simp] theorem tick_err (s : State) : (s.tick).err = s.err := rfl
@[simp] theorem tick_errcode (s : State) : (s.tick).errcode = s.errcode := rfl
@[simp] theorem tick_cfgBright (s : State) : (s.tick).cfgBright = s.cfgBright := rfl
@[simp] theorem tick_cfgDark (s : State) : (s.tick).cfgDark = s.cfgDark := rfl
@[simp] theorem tick_cfgInterval (s : State) : (s.tick).cfgInterval = s.cfgInterval := rfl
@[simp] theorem tick_cfgBitorder (s : State) : (s.tick).cfgBitorder = s.cfgBitorder := rfl
@[simp] theorem tick_cfgLayout (s : State) : (s.tick).cfgLayout = s.cfgLayout := rfl
@[simp] theorem tick_cfgInvert (s : State) : (s.tick).cfgInvert = s.cfgInvert := rfl
@[simp] theorem tick_cfgInterlace (s : State) : (s.tick).cfgInterlace = s.cfgInterlace := rfl
@[simp] theorem tick_cfgGrey (s : State) : (s.tick).cfgGrey = s.cfgGrey := rfl
@[simp] theorem tick_buf0 (s : State) : (s.tick).buf0 = s.buf0 := rfl
@[simp] theorem tick_buf1 (s : State) : (s.tick).buf1 = s.buf1 := rfl
@[simp] theorem tick_trace (s : State) : (s.tick).trace = s.trace ++ s.tickRecords s.nextPulse := rfl
@[simp] theorem tick_responses (s : State) : (s.tick).responses = s.responses := rfl
@[simp] theorem tick_commands (s : State) : (s.tick).commands = s.commands := rfl
@[simp] theorem tick_schedule (s : State) : (s.tick).schedule = s.schedule := rfl

@[simp] theorem arbSwap_cfgp (s : State) : (s.arbSwap).cfgp = s.cfgp := rfl
@[simp] theorem arbSwap_lrow (s : State) : (s.arbSwap).lrow = s.lrow := rfl
@[simp] theorem arbSwap_prow (s : State) : (s.arbSwap).prow = s.prow := rfl
@[simp] theorem arbSwap_pprev (s : State) : (s.arbSwap).pprev = s.pprev := rfl
@[simp] theorem arbSwap_phase (s : State) : (s.arbSwap).phase = s.phase := rfl
@[simp] theorem arbSwap_sync (s : State) : (s.arbSwap).sync = s.sync := rfl
@[simp] theorem arbSwap_apulse (s : State) : (s.arbSwap).apulse = s.apulse := rfl
@[simp] theorem arbSwap_frontSel (s : State) : (s.arbSwap).frontSel = !s.frontSel := rfl
@[simp] theorem arbSwap_cmdState (s : State) : (s.arbSwap).cmdState = .idle := rfl
@[simp] theorem arbSwap_copyIdx (s : State) : (s.arbSwap).copyIdx = s.copyIdx := rfl
@[simp] theorem arbSwap_err (s : State) : (s.arbSwap).err = s.err := rfl
@[simp] theorem arbSwap_errcode (s : State) : (s.arbSwap).errcode = s.errcode := rfl
@[simp] theorem arbSwap_cfgBright (s : State) : (s.arbSwap).cfgBright = s.cfgBright := rfl
@[simp] theorem arbSwap_cfgDark (s : State) : (s.arbSwap).cfgDark = s.cfgDark := rfl
@[simp] theorem arbSwap_cfgInterval (s : State) : (s.arbSwap).cfgInterval = s.cfgInterval := rfl
@[simp] theorem arbSwap_cfgBitorder (s : State) : (s.arbSwap).cfgBitorder = s.cfgBitorder := rfl
@[simp] theorem arbSwap_cfgLayout (s : State) : (s.arbSwap).cfgLayout = s.cfgLayout := rfl
@[simp] theorem arbSwap_cfgInvert (s : State) : (s.arbSwap).cfgInvert = s.cfgInvert := rfl
@[simp] theorem arbSwap_cfgInterlace (s : State) : (s.arbSwap).cfgInterlace = s.cfgInterlace := rfl
@[simp] theorem arbSwap_cfgGrey (s : State) : (s.arbSwap).cfgGrey = s.cfgGrey := rfl
@[simp] theorem arbSwap_buf0 (s : State) : (s.arbSwap).buf0 = s.buf0 := rfl
@[simp] theorem arbSwap_buf1 (s : State) : (s.arbSwap).buf1 = s.buf1 := rfl
@[simp] theorem arbSwap_trace (s : State) : (s.arbSwap).trace = s.trace := rfl
@[simp] theorem arbSwap_responses (s : State) : (s.arbSwap).responses = s.responses := rfl
@[simp] theorem arbSwap_commands (s : State) : (s.arbSwap).commands = s.commands := rfl
@[simp] theorem arbSwap_schedule (s : State) : (s.arbSwap).schedule = s.schedule := rfl

@[simp] theorem arbSwapc_cfgp (s : State) : (s.arbSwapc).cfgp = s.cfgp := rfl
@[simp] theorem arbSwapc_lrow (s : State) : (s.arbSwapc).lrow = s.lrow := rfl
@[simp] theorem arbSwapc_prow (s : State) : (s.arbSwapc).prow = s.prow := rfl
@[simp] theorem arbSwapc_pprev (s : State) : (s.arbSwapc).pprev = s.pprev := rfl
@[simp] theorem arbSwapc_phase (s : State) : (s.arbSwapc).phase = s.phase := rfl
@[simp] theorem arbSwapc_sync (s : State) : (s.arbSwapc).sync = s.sync := rfl
@[simp] theorem arbSwapc_apulse (s : State) : (s.arbSwapc).apulse = s.apulse := rfl
@[simp] theorem arbSwapc_frontSel (s : State) : (s.arbSwapc).frontSel = !s.frontSel := rfl
@[simp] theorem arbSwapc_cmdState (s : State) : (s.arbSwapc).cmdState = .copy := rfl
@[simp] theorem arbSwapc_copyIdx (s : State) : (s.arbSwapc).copyIdx = 0 := rfl
@[simp] theorem arbSwapc_err (s : State) : (s.arbSwapc).err = s.err := rfl
@[simp] theorem arbSwapc_errcode (s : State) : (s.arbSwapc).errcode = s.errcode := rfl
@[simp] theorem arbSwapc_cfgBright (s : State) : (s.arbSwapc).cfgBright = s.cfgBright := rfl
@[simp] theorem arbSwapc_cfgDark (s : State) : (s.arbSwapc).cfgDark = s.cfgDark := rfl
@[simp] theorem arbSwapc_cfgInterval (s : State) : (s.arbSwapc).cfgInterval = s.cfgInterval := rfl
@[simp] theorem arbSwapc_cfgBitorder (s : State) : (s.arbSwapc).cfgBitorder = s.cfgBitorder := rfl
@[simp] theorem arbSwapc_cfgLayout (s : State) : (s.arbSwapc).cfgLayout = s.cfgLayout := rfl
@[simp] theorem arbSwapc_cfgInvert (s : State) : (s.arbSwapc).cfgInvert = s.cfgInvert := rfl
@[simp] theorem arbSwapc_cfgInterlace (s : State) : (s.arbSwapc).cfgInterlace = s.cfgInterlace := rfl
@[simp] theorem arbSwapc_cfgGrey (s : State) : (s.arbSwapc).cfgGrey = s.cfgGrey := rfl
@[simp] theorem arbSwapc_buf0 (s : State) : (s.arbSwapc).buf0 = s.buf0 := rfl
@[simp] theorem arbSwapc_buf1 (s : State) : (s.arbSwapc).buf1 = s.buf1 := rfl
@[simp] theorem arbSwapc_trace (s : State) : (s.arbSwapc).trace = s.trace := rfl
@[simp] theorem arbSwapc_responses (s : State) : (s.arbSwapc).responses = s.responses := rfl
@[simp] theorem arbSwapc_commands (s : State) : (s.arbSwapc).commands = s.commands := rfl
@[simp] theorem arbSwapc_schedule (s : State) : (s.arbSwapc).schedule = s.schedule := rfl

@[simp] theorem arbSync_cfgp (s : State) : (s.arbSync).cfgp = s.cfgp := rfl
@[simp] theorem arbSync_lrow (s : State) : (s.arbSync).lrow = s.lrow := rfl
@[simp] theorem arbSync_prow (s : State) : (s.arbSync).prow = s.prow := rfl
@[simp] theorem arbSync_pprev (s : State) : (s.arbSync).pprev = s.pprev := rfl
@[simp] theorem arbSync_phase (s : State) : (s.arbSync).phase = s.phase := rfl
@[simp] theorem arbSync_sync (s : State) : (s.arbSync).sync = s.sync := rfl
@[simp] theorem arbSync_apulse (s : State) : (s.arbSync).apulse = s.apulse := rfl
@[simp] theorem arbSync_frontSel (s : State) : (s.arbSync).frontSel = s.frontSel := rfl
@[simp] theorem arbSync_cmdState (s : State) : (s.arbSync).cmdState = .idle := rfl
@[simp] theorem arbSync_copyIdx (s : State) : (s.arbSync).copyIdx = s.copyIdx := rfl
@[simp] theorem arbSync_err (s : State) : (s.arbSync).err = s.err := rfl
@[simp] theorem arbSync_errcode (s : State) : (s.arbSync).errcode = s.errcode := rfl
@[simp] theorem arbSync_cfgBright (s : State) : (s.arbSync).cfgBright = s.cfgBright := rfl
@[simp] theorem arbSync_cfgDark (s : State) : (s.arbSync).cfgDark = s.cfgDark := rfl
@[simp] theorem arbSync_cfgInterval (s : State) : (s.arbSync).cfgInterval = s.cfgInterval := rfl
@[simp] theorem arbSync_cfgBitorder (s : State) : (s.arbSync).cfgBitorder = s.cfgBitorder := rfl
@[simp] theorem arbSync_cfgLayout (s : State) : (s.arbSync).cfgLayout = s.cfgLayout := rfl
@[simp] theorem arbSync_cfgInvert (s : State) : (s.arbSync).cfgInvert = s.cfgInvert := rfl
@[simp] theorem arbSync_cfgInterlace (s : State) : (s.arbSync).cfgInterlace = s.cfgInterlace := rfl
@[simp] theorem arbSync_cfgGrey (s : State) : (s.arbSync).cfgGrey = s.cfgGrey := rfl
@[simp] theorem arbSync_buf0 (s : State) : (s.arbSync).buf0 = s.buf0 := rfl
@[simp] theorem arbSync_buf1 (s : State) : (s.arbSync).buf1 = s.buf1 := rfl
@[simp] theorem arbSync_trace (s : State) : (s.arbSync).trace = s.trace := rfl
@[simp] theorem arbSync_responses (s : State) : (s.arbSync).responses = s.responses := rfl
@[simp] theorem arbSync_commands (s : State) : (s.arbSync).commands = s.commands := rfl
@[simp] theorem arbSync_schedule (s : State) : (s.arbSync).schedule = s.schedule := rfl

@[simp] theorem applyReset_cfgp (s : State) : (s.applyReset).cfgp = s.cfgp := rfl
@[simp] theorem applyReset_lrow (s : State) : (s.applyReset).lrow = 0 := rfl
@[simp] theorem applyReset_prow (s : State) : (s.applyReset).prow = s.cfgp.physRow s.cfgp.rstInterlace 0 := rfl
@[simp] theorem applyReset_pprev (s : State) : (s.applyReset).pprev = s.cfgp.physRow s.cfgp.rstInterlace 17 := rfl
@[simp] theorem applyReset_phase (s : State) : (s.applyReset).phase = false := rfl
@[simp] theorem applyReset_sync (s : State) : (s.applyReset).sync = false := rfl
@[simp] theorem applyReset_apulse (s : State) : (s.applyReset).apulse = 0 := rfl
@[simp] theorem applyReset_frontSel (s : State) : (s.applyReset).frontSel = false := rfl
@[simp] theorem applyReset_cmdState (s : State) : (s.applyReset).cmdState = .idle := rfl
@[simp] theorem applyReset_copyIdx (s : State) : (s.applyReset).copyIdx = 0 := rfl
@[simp] theorem applyReset_err (s : State) : (s.applyReset).err = false := rfl
@[simp] theorem applyReset_errcode (s : State) : (s.applyReset).errcode = 0 := rfl
@[simp] theorem applyReset_cfgBright (s : State) : (s.applyReset).cfgBright = 0 := rfl
@[simp] theorem applyReset_cfgDark (s : State) : (s.applyReset).cfgDark = 0 := rfl
@[simp] theorem applyReset_cfgInterval (s : State) : (s.applyReset).cfgInterval = s.cfgp.intervalMin := rfl
@[simp] theorem applyReset_cfgBitorder (s : State) : (s.applyReset).cfgBitorder = .msbFirst := rfl
@[simp] theorem applyReset_cfgLayout (s : State) : (s.applyReset).cfgLayout = .h := rfl
@[simp] theorem applyReset_cfgInvert (s : State) : (s.applyReset).cfgInvert = false := rfl
@[simp] theorem applyReset_cfgInterlace (s : State) : (s.applyReset).cfgInterlace = s.cfgp.rstInterlace := rfl
@[simp] theorem applyReset_cfgGrey (s : State) : (s.applyReset).cfgGrey = false := rfl
@[simp] theorem applyReset_buf0 (s : State) : (s.applyReset).buf0 = s.buf0 := rfl
@[simp] theorem applyReset_buf1 (s : State) : (s.applyReset).buf1 = s.buf1 := rfl
@[simp] theorem applyReset_trace (s : State) : (s.applyReset).trace = [] := rfl
@[simp] theorem applyReset_responses (s : State) : (s.applyReset).responses = [] := rfl
@[simp] theorem applyReset_commands (s : State) : (s.applyReset).commands = s.commands := rfl
@[simp] theorem applyReset_schedule (s : State) : (s.applyReset).schedule = s.schedule := rfl

theorem buf_bufWrite (s : State) (b c : Bool) (off : Nat) (v : Byte) :
    (s.bufWrite b off v).buf c = if b = c then (s.buf c).write off v else s.buf c := by
  cases b <;> cases c <;> rfl

/-- Reading a byte after writing one: the written value at that buffer and offset, the old byte everywhere else. -/
theorem bufRead_bufWrite (s : State) (b c : Bool) (off o : Nat) (v : Byte) :
    (s.bufWrite b off v).bufRead c o = if b = c ∧ off = o then v else s.bufRead c o := by
  unfold State.bufRead
  rw [buf_bufWrite]
  by_cases hb : b = c
  · by_cases ho : off = o
    · simp [hb, ho]
    · simp [hb, ho, Memory.read_write_other _ _ ho]
  · simp [hb]

/-- A buffer is read through its two lists of written bytes only. -/
theorem bufRead_congr {s t : State} (h0 : t.buf0 = s.buf0) (h1 : t.buf1 = s.buf1) (b : Bool) (o : Nat) :
    t.bufRead b o = s.bufRead b o := by
  simp [State.bufRead, State.buf, h0, h1]

@[simp] theorem bufRead_tick (s : State) (b : Bool) (o : Nat) : s.tick.bufRead b o = s.bufRead b o := rfl
@[simp] theorem bufRead_error (s : State) (c : ErrCode) (b : Bool) (o : Nat) : (s.error c).bufRead b o = s.bufRead b o := rfl
@[simp] theorem bufRead_respond (s : State) (v : Half) (b : Bool) (o : Nat) : (s.respond v).bufRead b o = s.bufRead b o := rfl
@[simp] theorem bufRead_arbSwap (s : State) (b : Bool) (o : Nat) : s.arbSwap.bufRead b o = s.bufRead b o := rfl
@[simp] theorem bufRead_arbSwapc (s : State) (b : Bool) (o : Nat) : s.arbSwapc.bufRead b o = s.bufRead b o := rfl
@[simp] theorem bufRead_arbSync (s : State) (b : Bool) (o : Nat) : s.arbSync.bufRead b o = s.bufRead b o := rfl
@[simp] theorem bufRead_applyReset (s : State) (b : Bool) (o : Nat) : s.applyReset.bufRead b o = s.bufRead b o := rfl

end Sys2Proof.Machine.State
end

