-- ==== Sys2Proof/Laws/Ops.lean ====
section
/-! SUPPORT. One lemma per shared operation that says once everything it can do. -/

namespace Sys2Proof.Machine

/-- Accepting a command always answers a next state: the command's effect when the port is ready, the same state when not. -/
theorem accept_eq_next_iff {s t u : State} :
    accept s t = .next u ↔ (s.cmdState = .idle ∧ u = t) ∨ (s.cmdState ≠ .idle ∧ u = s) := by
  by_cases h : s.cmdState = .idle
  · simp [accept, State.cmdReady, h, @eq_comm _ u]
  · simp [accept, State.cmdReady, h, @eq_comm _ u]

@[simp] theorem accept_of_idle {s : State} (h : s.cmdState = .idle) (t : State) : accept s t = .next t := by
  simp [accept, State.cmdReady, h]

theorem accept_of_busy {s : State} (h : s.cmdState ≠ .idle) (t : State) : accept s t = .next s := by
  simp [accept, State.cmdReady, h]

theorem clampPulse_le (c : Cfgp) (imm : Half) : (clampPulse c imm).toNat ≤ c.pulseMax.toNat := by
  unfold clampPulse
  split_ifs with h
  · exact h
  · exact Nat.le_refl _

theorem le_clampInterval (c : Cfgp) (imm : Half) : c.intervalMin.toNat ≤ (clampInterval c imm).toNat := by
  unfold clampInterval
  split_ifs with h
  · exact h
  · exact Nat.le_refl _

/-- The one-bit immediates are 0 and 1. -/
theorem oneBit_eq_some_iff {imm : Half} {b : Bool} : oneBit imm = some b ↔ imm = BitVec.zeroExtend 16 (BitVec.ofBool b) := by
  have key : ∀ b : Bool, oneBit (BitVec.zeroExtend 16 (BitVec.ofBool b)) = some b := by decide
  constructor
  · intro h
    unfold oneBit at h
    split_ifs at h with hle
    have : imm = 0 ∨ imm = 1 := by
      rcases Nat.lt_or_eq_of_le hle with h0 | h1
      · exact .inl (BitVec.eq_of_toNat_eq (by simpa using Nat.lt_one_iff.1 h0))
      · exact .inr (BitVec.eq_of_toNat_eq (by simpa using h1))
    rcases this with rfl | rfl <;> (obtain rfl := Option.some.inj h; decide)
  · rintro rfl
    exact key b

theorem oneBit_eq_none_iff {imm : Half} : oneBit imm = none ↔ 1 < imm.toNat := by
  unfold oneBit
  split_ifs with h <;> simp <;> omega

/-- A selector has a value exactly when it is not reserved. -/
theorem selectorValue_eq_none_iff (s : State) (sel : BitVec 4) : s.selectorValue sel = none ↔ 9 ≤ sel.toNat := by
  obtain ⟨⟨n, hn⟩⟩ := sel
  have hn' : n < 16 := hn
  interval_cases n <;> simp [State.selectorValue]

/-- What the arbitrator's step does: nothing outside the sync window or with nothing pending, else one of its three steps. -/
theorem arbStep_cases (s : State) :
    (s.sync = true ∧ s.cmdState = .waitSwap ∧ s.arbStep = s.arbSwap) ∨
    (s.sync = true ∧ s.cmdState = .waitSwapc ∧ s.arbStep = s.arbSwapc) ∨
    (s.sync = true ∧ s.cmdState = .waitSync ∧ s.arbStep = s.arbSync) ∨
    ((s.sync = false ∨ s.cmdState = .idle ∨ s.cmdState = .copy) ∧ s.arbStep = s) := by
  unfold State.arbStep
  cases hs : s.sync <;> cases hc : s.cmdState <;> simp

/-- What the copy engine's step does: nothing when no copy runs, else one byte or the end of the copy. -/
theorem copyStep_cases (s : State) :
    (s.cmdState ≠ .copy ∧ s.copyStep = s) ∨
    (s.cmdState = .copy ∧ s.copyIdx.toNat < s.cfgp.fbLen ∧
      s.copyStep = { s.bufWrite (!s.frontSel) s.copyIdx.toNat (s.bufRead s.frontSel s.copyIdx.toNat) with
        copyIdx := s.copyIdx + 1 }) ∨
    (s.cmdState = .copy ∧ s.cfgp.fbLen ≤ s.copyIdx.toNat ∧ s.copyStep = { s with cmdState := .idle }) := by
  unfold State.copyStep State.copyByte
  cases hc : s.cmdState <;> simp
  by_cases h : s.copyIdx.toNat < s.cfgp.fbLen <;> simp [h, Nat.le_of_not_lt]

theorem fbLen_le (c : WfCfgp) : c.fbLen ≤ 65536 := c.wf.2.2.1

theorem rowStride_eq (c : WfCfgp) : c.rowStride = c.rowBytes := c.wf.2.1

theorem bsm_bijectionOn (c : WfCfgp) (l : Layout) : Cfgp.BijectionOn c.rowBytes (c.bsm l) := by
  obtain ⟨-, -, -, -, h, v, -⟩ := c.wf
  cases l
  · exact h
  · exact v

theorem imap_bijectionOn (c : WfCfgp) : Cfgp.BijectionOn nRows (c.imap.map Fin.val) := c.wf.2.2.2.1

/-- The Interlace Map is injective on the rows. -/
theorem imapAt_injective (c : WfCfgp) : Function.Injective c.imapAt := by
  obtain ⟨hl, -, hn⟩ := imap_bijectionOn c
  have hlen : c.imap.length = 18 := by simpa using hl
  have hnd : c.imap.Nodup := List.Nodup.of_map _ hn
  intro a b h
  have ha : a.val < c.imap.length := by omega
  have hb : b.val < c.imap.length := by omega
  simp only [Cfgp.imapAt, List.getD_eq_getElem?_getD, List.getElem?_eq_getElem ha, List.getElem?_eq_getElem hb,
    Option.getD_some] at h
  exact Fin.ext ((List.Nodup.getElem_inj_iff hnd).1 h)

theorem physRow_injective (c : WfCfgp) (il : Bool) : Function.Injective (c.physRow il) := by
  cases il
  · intro a b h
    simpa [Cfgp.physRow] using h
  · intro a b h
    exact imapAt_injective c (by simpa [Cfgp.physRow] using h)

/-- Every engine read is inside the buffer (R61, R126). -/
theorem composeOffset_lt (c : WfCfgp) (p : Row) {j : Nat} (hj : j < c.rowBytes) : composeOffset c.toCfgp p j < c.fbLen := by
  have hp : p.val ≤ 17 := by omega
  have := Nat.mul_le_mul_right c.rowBytes hp
  simp only [composeOffset, rowStride_eq, Cfgp.fbLen, nRows]
  omega

theorem composeData_length (s : State) (b : Bool) (p : Row) (l : Layout) (m : Byte) :
    (composeData s b p l m).length = s.cfgp.rowBytes := by
  simp [composeData, (bsm_bijectionOn s.cfgp l).1]

theorem compose_length (s : State) (b : Bool) (p : Row) (l : Layout) (m : Byte) (o : BitOrder) (a : Row) :
    (compose s b p l m o a).length = s.cfgp.rowBytes + (if s.cfgp.addrInline then 1 else 0) := by
  simp only [compose, composeAddr, List.length_append, composeData_length]
  split_ifs <;> simp

end Sys2Proof.Machine
end

