-- ==== Sys2Proof/Laws/PerInstr.lean ====
section
/-! SUPPORT. Statements made per instruction, one lemma per constructor. Family TableRow: the encoding of an instruction matches the match and mask of its row of the opcode table. -/

namespace Sys2Proof.Laws.TableRow

/-- The field "mask" of the instruction's row of spec/opcode_table.json (R98). -/
def mask : Instr → Word
  | .nop | .swap | .swapc | .wsync => 0xFFFFFFFF
  | .wrb _ _ => 0xFF000000
  | .rdb _ => 0xFF0000FF
  | .setbrt _ | .setdrk _ | .setivl _ | .setord _ | .setlay _ | .setinv _ | .setilc _ | .setgry _ => 0xFFFF0000
  | .getcfg _ => 0xF0FFFFFF
  | .tick => 0x00000001

/-- The field "match" of the instruction's row of spec/opcode_table.json (R98). -/
def pattern : Instr → Word
  | .nop => 0x00000000
  | .wrb _ _ => 0x10000000
  | .rdb _ => 0x20000000
  | .swap => 0x30000000
  | .swapc => 0x40000000
  | .wsync => 0x50000000
  | .setbrt _ => 0x60000000
  | .setdrk _ => 0x61000000
  | .setivl _ => 0x62000000
  | .setord _ => 0x63000000
  | .setlay _ => 0x64000000
  | .setinv _ => 0x65000000
  | .setilc _ => 0x66000000
  | .setgry _ => 0x67000000
  | .getcfg _ => 0x70000000
  | .tick => 0x00000001

/-- The encoded word matches the row's pattern under the row's mask; the scan step is a strobe and no word. -/
def Statement (i : Instr) : Prop :=
  match encode i with
  | .word w => w &&& mask i = pattern i
  | .strobe => i = .tick

/-- Bit `i` of a format M word. -/
theorem getLsbD_formatM (op : BitVec 4) (off : BitVec 16) (data : Byte) (i : Nat) :
    (formatM op off data).getLsbD i =
      if i < 8 then data.getLsbD i else if i < 24 then off.getLsbD (i - 8) else if i < 28 then false
      else op.getLsbD (i - 28) := by
  change (op ++ 0#4 ++ off ++ data : BitVec (4 + 4 + 16 + 8)).getLsbD i = _
  simp only [BitVec.getLsbD_append, BitVec.getLsbD_zero, Nat.sub_sub]
  split_ifs <;> first | rfl | omega

/-- Bit `i` of a format C word. -/
theorem getLsbD_formatC (op sel : BitVec 4) (imm : Half) (i : Nat) :
    (formatC op sel imm).getLsbD i =
      if i < 16 then imm.getLsbD i else if i < 24 then false else if i < 28 then sel.getLsbD (i - 24)
      else op.getLsbD (i - 28) := by
  change (op ++ sel ++ 0#8 ++ imm : BitVec (4 + 4 + 8 + 16)).getLsbD i = _
  simp only [BitVec.getLsbD_append, BitVec.getLsbD_zero, Nat.sub_sub]
  split_ifs <;> first | rfl | omega

theorem formatM_masked (op : BitVec 4) (off : BitVec 16) (data : Byte) :
    formatM op off data &&& 0xFF000000 = formatM op 0 0 := by
  apply BitVec.eq_of_getLsbD_eq
  intro i hi
  simp only [BitVec.getLsbD_and, getLsbD_formatM]
  interval_cases i <;> simp

theorem formatM_masked_data (op : BitVec 4) (off : BitVec 16) :
    formatM op off 0 &&& 0xFF0000FF = formatM op 0 0 := by
  apply BitVec.eq_of_getLsbD_eq
  intro i hi
  simp only [BitVec.getLsbD_and, getLsbD_formatM]
  interval_cases i <;> simp

theorem formatC_masked_imm (op sel : BitVec 4) (imm : Half) :
    formatC op sel imm &&& 0xFFFF0000 = formatC op sel 0 := by
  apply BitVec.eq_of_getLsbD_eq
  intro i hi
  simp only [BitVec.getLsbD_and, getLsbD_formatC]
  interval_cases i <;> simp

theorem formatC_masked_sel (op sel : BitVec 4) :
    formatC op sel 0 &&& 0xF0FFFFFF = formatC op 0 0 := by
  apply BitVec.eq_of_getLsbD_eq
  intro i hi
  simp only [BitVec.getLsbD_and, getLsbD_formatC]
  interval_cases i <;> simp

theorem nop : Statement .nop := rfl
theorem wrb (off : BitVec 16) (data : Byte) : Statement (.wrb off data) := formatM_masked 0x1 off data
theorem rdb (off : BitVec 16) : Statement (.rdb off) := formatM_masked_data 0x2 off
theorem swap : Statement .swap := rfl
theorem swapc : Statement .swapc := rfl
theorem wsync : Statement .wsync := rfl
theorem setbrt (imm : Half) : Statement (.setbrt imm) := formatC_masked_imm 0x6 0 imm
theorem setdrk (imm : Half) : Statement (.setdrk imm) := formatC_masked_imm 0x6 1 imm
theorem setivl (imm : Half) : Statement (.setivl imm) := formatC_masked_imm 0x6 2 imm
theorem setord (imm : Half) : Statement (.setord imm) := formatC_masked_imm 0x6 3 imm
theorem setlay (imm : Half) : Statement (.setlay imm) := formatC_masked_imm 0x6 4 imm
theorem setinv (imm : Half) : Statement (.setinv imm) := formatC_masked_imm 0x6 5 imm
theorem setilc (imm : Half) : Statement (.setilc imm) := formatC_masked_imm 0x6 6 imm
theorem setgry (imm : Half) : Statement (.setgry imm) := formatC_masked_imm 0x6 7 imm
theorem getcfg (sel : BitVec 4) : Statement (.getcfg sel) := formatC_masked_sel 0x7 sel
theorem tick : Statement .tick := rfl

end Sys2Proof.Laws.TableRow
end

