-- ==== Sys2Proof/Laws/Scan.lean ====
section
/-! SUPPORT. What one tick and a row of ticks do to the row counter, the phase, the sync flag and the trace. -/

namespace Sys2Proof.Machine

/-- The tick as one record update: what its sub-steps amount to. -/
theorem tick_eq (s : State) :
    s.tick = { s with
      lrow := s.nextRow, prow := s.nextPhysRow, pprev := s.prow, phase := s.nextPhase, sync := s.nextSync,
      apulse := s.nextPulse, trace := s.trace ++ s.tickRecords s.nextPulse } := rfl

theorem nextRow_val (s : State) : s.nextRow.val = if s.lrow = 17 then 0 else s.lrow.val + 1 := by
  have := s.lrow.isLt
  simp only [State.nextRow, nRows, Fin.ext_iff]
  split_ifs <;> omega

theorem nextRow_eq_zero_iff (s : State) : s.nextRow = 0 ↔ s.lrow = 17 := by
  rw [Fin.ext_iff, nextRow_val]
  split_ifs with h <;> simp [h]

theorem nextSync_eq (s : State) : s.nextSync = decide (s.lrow = 17) := by
  simp only [State.nextSync, nextRow_eq_zero_iff]

theorem nextPhase_eq (s : State) : s.nextPhase = (s.phase ^^ decide (s.lrow = 17)) := by
  simp only [State.nextPhase, nextRow_eq_zero_iff]
  split_ifs with h <;> simp [h]

theorem prevRow_nextRow (s : State) : prevRow s.nextRow = s.lrow := by
  have := s.lrow.isLt
  apply Fin.ext
  simp only [prevRow, State.nextRow, nRows] at *
  omega

@[simp] theorem ticks_zero (s : State) : ticks 0 s = s := rfl

theorem ticks_succ (n : Nat) (s : State) : ticks (n + 1) s = ticks n s.tick := rfl

theorem ticks_add (m n : Nat) (s : State) : ticks (m + n) s = ticks n (ticks m s) := by
  induction m generalizing s with
  | zero => simp
  | succ m ih => rw [Nat.succ_add, ticks_succ, ticks_succ, ih]

/-- What no tick ever changes, along a row of them. -/
theorem ticks_frame (n : Nat) (s : State) :
    (ticks n s).cfgp = s.cfgp ∧ (ticks n s).frontSel = s.frontSel ∧ (ticks n s).cfgInterlace = s.cfgInterlace ∧
    (ticks n s).cfgGrey = s.cfgGrey ∧ (ticks n s).buf0 = s.buf0 ∧ (ticks n s).buf1 = s.buf1 := by
  induction n generalizing s with
  | zero => simp
  | succ n ih =>
    have := ih s.tick
    simpa [ticks_succ] using this

theorem ticks_lrow (n : Nat) (s : State) : (ticks n s).lrow.val = (s.lrow.val + n) % 18 := by
  induction n generalizing s with
  | zero => simp [Nat.mod_eq_of_lt s.lrow.isLt]
  | succ n ih =>
    rw [ticks_succ, ih]
    simp only [State.tick_lrow, State.nextRow, nRows]
    omega

theorem ticks_prow_succ (n : Nat) (s : State) :
    (ticks (n + 1) s).prow = s.cfgp.physRow s.cfgInterlace (ticks (n + 1) s).lrow := by
  induction n generalizing s with
  | zero => rfl
  | succ n ih =>
    rw [ticks_succ, ih]
    simp

end Sys2Proof.Machine
end

