-- ==== Sys2Proof/Laws/Step.lean ====
section
/-! SUPPORT. What one step can do, said once: every meaning answers a next state, and a step is one of the turns. -/

namespace Sys2Proof.Machine

/-- The state an instruction's own effect leaves, when the port is ready. -/
def effect (i : Instr) (s : State) : State :=
  match i with
  | .nop => s
  | .wrb off data => if s.offsetLegal off then s.bufWrite (!s.frontSel) off.toNat data else s.error .offsetRange
  | .rdb off =>
    if s.offsetLegal off then s.respond (BitVec.zeroExtend 16 (s.bufRead (!s.frontSel) off.toNat)) else s.error .offsetRange
  | .swap => { s with cmdState := .waitSwap }
  | .swapc => { s with cmdState := .waitSwapc }
  | .wsync => { s with cmdState := .waitSync }
  | .setbrt imm => { s with cfgBright := clampPulse s.cfgp.toCfgp imm }
  | .setdrk imm => { s with cfgDark := clampPulse s.cfgp.toCfgp imm }
  | .setivl imm => { s with cfgInterval := clampInterval s.cfgp.toCfgp imm }
  | .setord imm => (oneBit imm).elim (s.error .illegalValue) fun b => { s with cfgBitorder := bitOrderOf b }
  | .setlay imm => (oneBit imm).elim (s.error .illegalValue) fun b => { s with cfgLayout := layoutOf b }
  | .setinv imm => (oneBit imm).elim (s.error .illegalValue) fun b => { s with cfgInvert := b }
  | .setilc imm => (oneBit imm).elim (s.error .illegalValue) fun b => { s with cfgInterlace := b }
  | .setgry imm => (oneBit imm).elim (s.error .illegalValue) fun b => { s with cfgGrey := b }
  | .getcfg sel => (s.selectorValue sel).elim (s.error .reservedSelector) s.respond
  | .tick => s.tick

/-- Every meaning answers a next state: the instruction's effect, or, for a command at a closed port, the same state. -/
theorem exec_eq (i : Instr) (s : State) :
    exec i s = .next (if i.isCommand = true ∧ s.cmdState ≠ .idle then s else effect i s) := by
  by_cases hs : s.cmdState = .idle
  · cases i <;>
      simp only [exec, execNop, execWrb, execRdb, execSwap, execSwapc, execWsync, execSetbrt, execSetdrk, execSetivl, execSetord,
        execSetlay, execSetinv, execSetilc, execSetgry, execGetcfg, execTick, setBit, accept_of_idle hs, hs, State.effAddr,
        effect, ne_eq, not_true_eq_false, and_false, if_false] <;>
      (first | rfl | (split <;> simp_all))
  · cases i <;>
      simp [exec, execNop, execWrb, execRdb, execSwap, execSwapc, execWsync, execSetbrt, execSetdrk, execSetivl, execSetord,
        execSetlay, execSetinv, execSetilc, execSetgry, execGetcfg, execTick, setBit, accept_of_busy hs, hs, Instr.isCommand,
        effect]

/-- The producer's turn at an open port: the decoded instruction runs, an illegal word takes its command error. -/
theorem step_producer {s : State} {w : Word} {ws : List Word} {ts : List Turn} (hsch : s.schedule = .producer :: ts)
    (hcmd : s.commands = w :: ws) (hidle : s.cmdState = .idle) :
    step s = match decodeWord w with
      | .ok i => exec i { s with schedule := ts, commands := ws }
      | .error c => .next (State.error { s with schedule := ts, commands := ws } c) := by
  cases hd : decodeWord w <;>
    simp [step, State.fetch, hsch, State.turn, State.producerTurn, State.cmdReady, hidle, hcmd, State.present, decode, hd]

/-- What one step does, by the turn at the head of the schedule. -/
theorem step_cases (s : State) :
    (s.schedule = [] ∧ step s = .next s) ∨
    ∃ t ts, s.schedule = t :: ts ∧
      ((t = .scheduler ∧ step s = .next (s.withSchedule ts).tick) ∨
       (t = .producer ∧ (s.cmdState ≠ .idle ∨ s.commands = []) ∧ step s = .next (s.withSchedule ts)) ∨
       (t = .producer ∧ s.cmdState = .idle ∧ ∃ w ws c, s.commands = w :: ws ∧ decode (.word w) = .error c ∧
          step s = .next (State.error { s with schedule := ts, commands := ws } c)) ∨
       (t = .producer ∧ s.cmdState = .idle ∧ ∃ w ws i, s.commands = w :: ws ∧ decode (.word w) = .ok i ∧
          step s = exec i { s with schedule := ts, commands := ws }) ∨
       (t = .arbitrator ∧ step s = .next (s.withSchedule ts).arbStep) ∨
       (t = .copyEngine ∧ step s = .next (s.withSchedule ts).copyStep) ∨
       (t = .resetInput ∧ step s = .next (s.withSchedule ts).applyReset)) := by
  cases hsch : s.schedule with
  | nil => exact .inl ⟨rfl, by simp [step, State.fetch, hsch]⟩
  | cons t ts =>
    refine .inr ⟨t, ts, rfl, ?_⟩
    cases t with
    | scheduler => exact .inl ⟨rfl, by simp [step, State.fetch, hsch, State.turn, State.present, decode]; rfl⟩
    | producer =>
      by_cases hr : s.cmdState = .idle
      · cases hc : s.commands with
        | nil =>
          refine .inr (.inl ⟨rfl, .inr rfl, ?_⟩)
          simp [step, State.fetch, hsch, State.turn, State.producerTurn, State.cmdReady, hr, hc, State.withSchedule]
        | cons w ws =>
          cases hd : decode (.word w) with
          | error c =>
            refine .inr (.inr (.inl ⟨rfl, hr, w, ws, c, rfl, hd, ?_⟩))
            simp [step, State.fetch, hsch, State.turn, State.producerTurn, State.cmdReady, hr, hc, State.present, hd]
          | ok i =>
            refine .inr (.inr (.inr (.inl ⟨rfl, hr, w, ws, i, rfl, hd, ?_⟩)))
            simp [step, State.fetch, hsch, State.turn, State.producerTurn, State.cmdReady, hr, hc, State.present, hd]
      · refine .inr (.inl ⟨rfl, .inl hr, ?_⟩)
        simp [step, State.fetch, hsch, State.turn, State.producerTurn, State.cmdReady, hr, State.withSchedule]
    | arbitrator =>
      exact .inr (.inr (.inr (.inr (.inl ⟨rfl, by simp [step, State.fetch, hsch, State.turn, State.withSchedule]⟩))))
    | copyEngine =>
      exact .inr (.inr (.inr (.inr (.inr (.inl ⟨rfl, by simp [step, State.fetch, hsch, State.turn, State.withSchedule]⟩)))))
    | resetInput =>
      exact .inr (.inr (.inr (.inr (.inr (.inr ⟨rfl, by simp [step, State.fetch, hsch, State.turn, State.withSchedule]⟩)))))

/-- No command word decodes to TICK. -/
theorem decode_word_ne_tick {w : Word} {i : Instr} (h : decode (.word w) = .ok i) : i ≠ .tick := by
  rintro rfl
  revert h
  simp only [decode, decodeWord, decodeZ, decodeWrb, decodeRdb, decodeSetcfg, setterOf, decodeGetcfg]
  repeat' split
  all_goals simp

/-- A run of `k + 1` steps is its first step and then a run of `k`. -/
theorem run_succ {s t : State} (k : Nat) (h : step s = .next t) :
    Host.Core.run Sys2Proof.core (k + 1) s = Host.Core.run Sys2Proof.core k t := by
  have h' : Sys2Proof.core.step s = .next t := h
  simp only [Host.Core.run, h']

/-- Where one step leads, by the turn at the head of the schedule: the forward reading of `step_cases`. -/
theorem step_shape {s t : State} (h : step s = .next t) :
    (t = s) ∨ ∃ a ts, s.schedule = a :: ts ∧
      ((a = .scheduler ∧ t = (s.withSchedule ts).tick) ∨
       (a = .producer ∧
          (t = s.withSchedule ts ∨
            (s.cmdState = .idle ∧ ∃ ws,
              ((∃ c, t = State.error { s with schedule := ts, commands := ws } c) ∨
                ∃ i, i ≠ .tick ∧ t = effect i { s with schedule := ts, commands := ws })))) ∨
       (a = .arbitrator ∧ t = (s.withSchedule ts).arbStep) ∨
       (a = .copyEngine ∧ t = (s.withSchedule ts).copyStep) ∨
       (a = .resetInput ∧ t = (s.withSchedule ts).applyReset)) := by
  rcases step_cases s with ⟨-, h'⟩ | ⟨a, ts, hs, ⟨ha, h'⟩ | ⟨ha, -, h'⟩ | ⟨ha, hi, w, ws, c, -, -, h'⟩ | ⟨ha, hi, w, ws, i, -, hd, h'⟩ | ⟨ha, h'⟩ | ⟨ha, h'⟩ | ⟨ha, h'⟩⟩
  · rw [h'] at h; cases h; exact .inl rfl
  · rw [h'] at h; cases h; exact .inr ⟨a, ts, hs, .inl ⟨ha, rfl⟩⟩
  · rw [h'] at h; cases h; exact .inr ⟨a, ts, hs, .inr (.inl ⟨ha, .inl rfl⟩)⟩
  · rw [h'] at h; cases h; exact .inr ⟨a, ts, hs, .inr (.inl ⟨ha, .inr ⟨hi, ws, .inl ⟨c, rfl⟩⟩⟩)⟩
  · rw [h', exec_eq] at h
    have hc : ¬ (i.isCommand = true ∧ s.cmdState ≠ .idle) := by simp [hi]
    have hni : i ≠ .tick := decode_word_ne_tick hd
    simp only [hc, if_false] at h
    cases h; exact .inr ⟨a, ts, hs, .inr (.inl ⟨ha, .inr ⟨hi, ws, .inr ⟨i, hni, rfl⟩⟩⟩)⟩
  · rw [h'] at h; cases h; exact .inr ⟨a, ts, hs, .inr (.inr (.inl ⟨ha, rfl⟩))⟩
  · rw [h'] at h; cases h; exact .inr ⟨a, ts, hs, .inr (.inr (.inr (.inl ⟨ha, rfl⟩)))⟩
  · rw [h'] at h; cases h; exact .inr ⟨a, ts, hs, .inr (.inr (.inr (.inr ⟨ha, rfl⟩)))⟩

/-- The shapes a command's effect has. -/
theorem effect_cases (i : Instr) (s : State) (hi : i ≠ .tick) :
    (effect i s = s) ∨
    (∃ off v, s.offsetLegal off = true ∧ effect i s = s.bufWrite (!s.frontSel) off.toNat v) ∨
    (∃ v, effect i s = s.respond v) ∨
    (∃ c, effect i s = s.error c) ∨
    (∃ c, c ≠ .idle ∧ c ≠ .copy ∧ effect i s = { s with cmdState := c }) ∨
    (∃ v, v.toNat ≤ s.cfgp.pulseMax.toNat ∧ effect i s = { s with cfgBright := v }) ∨
    (∃ v, v.toNat ≤ s.cfgp.pulseMax.toNat ∧ effect i s = { s with cfgDark := v }) ∨
    (∃ v, s.cfgp.intervalMin.toNat ≤ v.toNat ∧ effect i s = { s with cfgInterval := v }) ∨
    (∃ v, effect i s = { s with cfgBitorder := v }) ∨ (∃ x, effect i s = { s with cfgLayout := x }) ∨
    (∃ v, effect i s = { s with cfgInvert := v }) ∨ (∃ v, effect i s = { s with cfgInterlace := v }) ∨
    (∃ v, effect i s = { s with cfgGrey := v }) := by
  cases i with
  | nop => exact .inl rfl
  | tick => simp at hi
  | wrb off data =>
    simp only [effect]
    split_ifs with h
    · exact .inr (.inl ⟨off, data, h, rfl⟩)
    · exact .inr (.inr (.inr (.inl ⟨_, rfl⟩)))
  | rdb off =>
    simp only [effect]
    split_ifs with h
    · exact .inr (.inr (.inl ⟨_, rfl⟩))
    · exact .inr (.inr (.inr (.inl ⟨_, rfl⟩)))
  | swap => exact .inr (.inr (.inr (.inr (.inl ⟨_, by simp, by simp, rfl⟩))))
  | swapc => exact .inr (.inr (.inr (.inr (.inl ⟨_, by simp, by simp, rfl⟩))))
  | wsync => exact .inr (.inr (.inr (.inr (.inl ⟨_, by simp, by simp, rfl⟩))))
  | setbrt imm => exact .inr (.inr (.inr (.inr (.inr (.inl ⟨_, clampPulse_le _ _, rfl⟩)))))
  | setdrk imm => exact .inr (.inr (.inr (.inr (.inr (.inr (.inl ⟨_, clampPulse_le _ _, rfl⟩))))))
  | setivl imm => exact .inr (.inr (.inr (.inr (.inr (.inr (.inr (.inl ⟨_, le_clampInterval _ _, rfl⟩)))))))
  | setord imm =>
    simp only [effect]; cases oneBit imm
    · exact .inr (.inr (.inr (.inl ⟨_, rfl⟩)))
    · exact .inr (.inr (.inr (.inr (.inr (.inr (.inr (.inr (.inl ⟨_, rfl⟩))))))))
  | setlay imm =>
    simp only [effect]; cases oneBit imm
    · exact .inr (.inr (.inr (.inl ⟨_, rfl⟩)))
    · exact .inr (.inr (.inr (.inr (.inr (.inr (.inr (.inr (.inr (.inl ⟨_, rfl⟩)))))))))
  | setinv imm =>
    simp only [effect]; cases oneBit imm
    · exact .inr (.inr (.inr (.inl ⟨_, rfl⟩)))
    · exact .inr (.inr (.inr (.inr (.inr (.inr (.inr (.inr (.inr (.inr (.inl ⟨_, rfl⟩))))))))))
  | setilc imm =>
    simp only [effect]; cases oneBit imm
    · exact .inr (.inr (.inr (.inl ⟨_, rfl⟩)))
    · exact .inr (.inr (.inr (.inr (.inr (.inr (.inr (.inr (.inr (.inr (.inr (.inl ⟨_, rfl⟩)))))))))))
  | setgry imm =>
    simp only [effect]; cases oneBit imm
    · exact .inr (.inr (.inr (.inl ⟨_, rfl⟩)))
    · exact .inr (.inr (.inr (.inr (.inr (.inr (.inr (.inr (.inr (.inr (.inr (.inr ⟨_, rfl⟩)))))))))))
  | getcfg sel =>
    simp only [effect]; cases State.selectorValue s sel
    · exact .inr (.inr (.inr (.inl ⟨_, rfl⟩)))
    · exact .inr (.inr (.inl ⟨_, rfl⟩))

end Sys2Proof.Machine
end

