-- ==== Sys2Proof/Tests/Slice0.lean ====
section
/-! SUPPORT. The model's own tests: the words of 95_test_vectors.md, the construction checks, one-step vectors of each family, and a witness for the hypotheses of each statement. Expected results are the spec's worked examples and vectors, or read off its rules by hand. -/

namespace Sys2Proof.Tests

open Sys2Proof.Machine

/-! ## The test instantiations of 95_test_vectors.md section 0 -/

/-- `IMAP` of section 0: the even rows, then the odd rows. -/
def imapTV : List Row := [0, 2, 4, 6, 8, 10, 12, 14, 16, 1, 3, 5, 7, 9, 11, 13, 15, 17]

/-- `RAM[1]` of section 0: the 8 bits of the row reversed. -/
def ramReversed : List Byte :=
  [0x00, 0x80, 0x40, 0xC0, 0x20, 0xA0, 0x60, 0xE0, 0x10, 0x90, 0x50, 0xD0, 0x30, 0xB0, 0x70, 0xF0, 0x08, 0x88]

/-- The record TV with `K = k` (section 0). -/
def rawTV (k : Nat) : Cfgp where
  k := k
  rowStride := 18 * k
  pulseMax := 15
  intervalMin := 100
  imap := imapTV
  bsmH := List.range (18 * k)
  bsmV := (List.range (18 * k)).reverse
  ramMsb := (List.range 18).map (BitVec.ofNat 8)
  ramLsb := ramReversed
  addrInline := false
  addrLag := false
  order := .shiftThenLatch
  rstInterlace := false

def tv1 : WfCfgp := { toCfgp := rawTV 1, wf := by decide }
def tv1L : WfCfgp := { toCfgp := (rawTV 1).profileP1, wf := by decide }
def tv2 : WfCfgp := { toCfgp := rawTV 2, wf := by decide }

/-- The bytes `bs` written from offset `off` on. -/
def bytesAt (off : Nat) (bs : List Byte) : Memory := bs.zipIdx.map fun (b, i) => (off + i, b)

/-- What a step or an instruction leaves, read by `f`; none if it stopped. -/
def after {α : Type} (o : Host.Outcome State Fault Refusal) (f : State → α) : Option α :=
  match o with
  | .next t => some (f t)
  | .fault _ => none
  | .refused _ => none

/-- `18` zero bytes. -/
def zeros : List Byte := List.replicate 18 0

/-! ## Construction checks (R7): one ill-formed record for each, refused -/

theorem test_construct_tv1 : (rawTV 1).construct?.isSome = true := by decide
theorem test_refuse_k_zero : ¬ (rawTV 0).WellFormed := by decide
theorem test_refuse_stride : ¬ ({ rawTV 1 with rowStride := 19 } : Cfgp).WellFormed := by decide
theorem test_refuse_length :
    ¬ ({ rawTV 1 with k := 203, rowStride := 3654 } : Cfgp).WellFormed := by decide
theorem test_refuse_imap_repeat :
    ¬ ({ rawTV 1 with imap := 0 :: 0 :: imapTV.drop 2 } : Cfgp).WellFormed := by decide
theorem test_refuse_imap_short : ¬ ({ rawTV 1 with imap := imapTV.drop 1 } : Cfgp).WellFormed := by decide
theorem test_refuse_bsmH_range :
    ¬ ({ rawTV 1 with bsmH := 18 :: (List.range 18).drop 1 } : Cfgp).WellFormed := by decide
theorem test_refuse_bsmV_repeat :
    ¬ ({ rawTV 1 with bsmV := 1 :: (List.range 18).drop 1 } : Cfgp).WellFormed := by decide
theorem test_refuse_ramMsb : ¬ ({ rawTV 1 with ramMsb := [] } : Cfgp).WellFormed := by decide
theorem test_refuse_ramLsb : ¬ ({ rawTV 1 with ramLsb := 0 :: ramReversed } : Cfgp).WellFormed := by decide

/-! ## Operand checks (R99): one ill-formed instruction for each, refused -/

theorem test_legal_wrb : (Instr.wrb 323 0).WellFormed tv1.toCfgp := by decide
theorem test_illegal_wrb : ¬ (Instr.wrb 324 0).WellFormed tv1.toCfgp := by decide
theorem test_illegal_rdb : ¬ (Instr.rdb 324).WellFormed tv1.toCfgp := by decide
theorem test_illegal_getcfg : ¬ (Instr.getcfg 9).WellFormed tv1.toCfgp := by decide
theorem test_illegal_setord : ¬ (Instr.setord 2).WellFormed tv1.toCfgp := by decide
theorem test_illegal_setlay : ¬ (Instr.setlay 2).WellFormed tv1.toCfgp := by decide
theorem test_illegal_setinv : ¬ (Instr.setinv 0xFFFF).WellFormed tv1.toCfgp := by decide
theorem test_illegal_setilc : ¬ (Instr.setilc 2).WellFormed tv1.toCfgp := by decide
theorem test_illegal_setgry : ¬ (Instr.setgry 3).WellFormed tv1.toCfgp := by decide

/-! ## Decoding: every row's word written out from section 2.1 (format Z, M, C of R93) -/

theorem test_decode_nop : decode (.word 0b00000000000000000000000000000000) = .ok .nop := by decide
theorem test_decode_wrb :
    decode (.word 0b00010000_0000000000010001_01010101) = .ok (.wrb 17 0x55) := by decide
theorem test_decode_rdb : decode (.word 0b00100000_0000000000010001_00000000) = .ok (.rdb 17) := by decide
theorem test_decode_swap : decode (.word 0x30000000) = .ok .swap := by decide
theorem test_decode_swapc : decode (.word 0x40000000) = .ok .swapc := by decide
theorem test_decode_wsync : decode (.word 0x50000000) = .ok .wsync := by decide
theorem test_decode_setbrt :
    decode (.word 0b0110_0000_00000000_0000000000010100) = .ok (.setbrt 20) := by decide
theorem test_decode_setdrk : decode (.word 0x61000003) = .ok (.setdrk 3) := by decide
theorem test_decode_setivl : decode (.word 0x62000032) = .ok (.setivl 50) := by decide
theorem test_decode_setord : decode (.word 0x63000001) = .ok (.setord 1) := by decide
theorem test_decode_setlay : decode (.word 0x64000001) = .ok (.setlay 1) := by decide
theorem test_decode_setinv : decode (.word 0x65000001) = .ok (.setinv 1) := by decide
theorem test_decode_setilc : decode (.word 0x66000001) = .ok (.setilc 1) := by decide
theorem test_decode_setgry : decode (.word 0x67000001) = .ok (.setgry 1) := by decide
theorem test_decode_getstat : decode (.word 0x78000000) = .ok (.getcfg 8) := by decide
theorem test_decode_tick : decodeTableWord 1 1 = some .tick := by decide
theorem test_decode_table_word : decodeTableWord 32 0x10014301 = some (.wrb 323 1) := by decide
theorem test_no_strobe : decodeTableWord 1 0 = none := by decide

theorem test_reject_opcode : decode (.word 0x90000000) = .error .reservedOpcode := by decide
theorem test_reject_swap_bit : decode (.word 0x30000001) = .error .reservedField := by decide
theorem test_reject_rdb_data : decode (.word 0x20001101) = .error .reservedField := by decide
theorem test_reject_wrb_mbz : decode (.word 0x11000000) = .error .reservedField := by decide
theorem test_reject_setcfg_status : decode (.word 0x68000001) = .error .reservedSelector := by decide
/-- R99 check 2 comes before check 4. -/
theorem test_reject_order : decode (.word 0x68010001) = .error .reservedField := by decide

theorem test_encode_wrb : encode (.wrb 323 1) = .word 0x10014301 := by decide
theorem test_encode_setbrt : encode (.setbrt 20) = .word 0x60000014 := by decide
theorem test_encode_getcfg : encode (.getcfg 8) = .word 0x78000000 := by decide
theorem test_pseudo_getstat : pseudoGetstat = 0x78000000 := by decide
theorem test_pseudo_setcfg : pseudoSetcfg 4 1 = 0x64000001 := by decide

/-! ## COMPOSE (section 2.2) -/

/-- The buffer of V1 to V6: row 2 (and row 3) zero except offset 37 = 0x81. -/
def bufV (c : WfCfgp) : State :=
  { State.resetOf c with buf0 := bytesAt 36 (0x00 :: 0x81 :: List.replicate 34 0x00) }

theorem test_compose_V1 : compose (bufV tv1) false 2 .h 0x00 .msbFirst 2 = 0x00 :: 0x81 :: List.replicate 16 0x00 := by decide
theorem test_compose_V2 : compose (bufV tv1) false 2 .v 0x00 .msbFirst 2 = List.replicate 16 0x00 ++ [0x81, 0x00] := by decide
theorem test_compose_V3 : compose (bufV tv1) false 2 .h 0xFF .msbFirst 2 = 0xFF :: 0x7E :: List.replicate 16 0xFF := by decide
theorem test_compose_V4 : compose (bufV tv1) false 3 .h 0x00 .msbFirst 3 = zeros := by decide
theorem test_compose_V6 :
    compose (bufV tv1L) false 2 .v 0xFF .lsbFirst 1 = List.replicate 16 0xFF ++ [0x7E, 0xFF, 0x80] := by decide
theorem test_compose_V8 :
    compose { State.resetOf tv2 with buf0 := bytesAt 612 (0x01 :: List.replicate 34 0 ++ [0x80]) } false 17 .v 0xFF .msbFirst 17
      = 0x7F :: List.replicate 34 0xFF ++ [0xFE] := by decide

/-! ## TICK (section 2.3) -/

/-- The state before T2. -/
def beforeT2 : State :=
  { State.resetOf tv1 with lrow := 17, prow := 17, pprev := 16, apulse := 15, buf0 := bytesAt 306 (0x01 :: zeros.drop 1) }

theorem test_tick_T2_trace : after (exec .tick beforeT2) (·.trace) =
    some [.beginTx, .shift (0x01 :: zeros.drop 1), .rowaddr 0x11, .latch, .illum 15] := by decide
theorem test_tick_T2_registers : after (exec .tick beforeT2) (fun t => (t.lrow, t.prow, t.pprev, t.phase, t.sync, t.apulse)) =
    some (0, 0, 17, true, true, 15) := by decide
theorem test_tick_T3 : after (exec .tick { beforeT2 with
      lrow := 0, prow := 0, pprev := 17, phase := true, sync := true, cfgBright := 12, cfgDark := 3, buf0 := bytesAt 0 zeros })
    (fun t => (t.trace.drop 3, t.lrow, t.pprev, t.sync, t.apulse)) = some ([.latch, .illum 3], 1, 0, false, 3) := by decide
/-- T4 and T5: with greyscale the source is the back buffer. -/
theorem test_tick_T4 : after (exec .tick { State.resetOf tv1 with
      lrow := 5, prow := 5, pprev := 4, phase := true, apulse := 3, cfgGrey := true, buf1 := bytesAt 90 (0xAA :: zeros.drop 1) })
    (·.trace) = some [.beginTx, .shift (0xAA :: zeros.drop 1), .rowaddr 0x05, .latch, .illum 3] := by decide
theorem test_tick_T6 : after (exec .tick { State.resetOf tv1 with
      lrow := 5, prow := 5, pprev := 4, apulse := 9, cfgInterlace := true, cfgBitorder := .lsbFirst, buf0 := bytesAt 90 zeros })
    (fun t => (t.trace.drop 2, t.lrow, t.prow, t.pprev)) = some ([.rowaddr 0xA0, .latch, .illum 9], 6, 12, 5) := by decide
theorem test_tick_T7 : after (exec .tick { State.resetOf tv1L with
      cfgBright := 15, cfgBitorder := .lsbFirst, buf0 := bytesAt 0 zeros })
    (·.trace) = some [.latch, .beginTx, .shift (zeros ++ [0x88]), .illum 15] := by decide

/-! ## The arbitrator (section 2.4) -/

/-- `sync = 1` with the arbitrator's turn next. -/
def window (c : CmdState) : State :=
  { State.resetOf tv1 with sync := true, cmdState := c, schedule := [.arbitrator] }

theorem test_swap_accepted : after (exec .swap (State.resetOf tv1)) (·.cmdState) = some .waitSwap := by decide
theorem test_swapc_accepted : after (exec .swapc (State.resetOf tv1)) (·.cmdState) = some .waitSwapc := by decide
theorem test_wsync_accepted : after (exec .wsync (State.resetOf tv1)) (·.cmdState) = some .waitSync := by decide
theorem test_arb_swap : after (step (window .waitSwap)) (fun t => (t.frontSel, t.sync, t.cmdState)) = some (true, true, .idle) := by decide
theorem test_arb_swapc : after (step (window .waitSwapc)) (fun t => (t.frontSel, t.copyIdx, t.cmdState)) = some (true, 0, .copy) := by decide
/-- S5: only the port is reopened. -/
theorem test_arb_sync : after (step (window .waitSync)) id = some { window .waitSync with cmdState := .idle, schedule := [] } := by decide
/-- S2: no step is enabled outside the window, the turn passes. -/
theorem test_arb_closed : after (step { window .waitSwap with sync := false }) (fun t => (t.frontSel, t.cmdState)) =
    some (false, .waitSwap) := by decide

/-- S7 after four bytes: `BUF[1]` is front and holds 0x11, `BUF[0]` holds 0x22. -/
def copying (n : BitVec 17) : State :=
  { State.resetOf tv1 with
    frontSel := true, cmdState := .copy, copyIdx := n, schedule := [.copyEngine]
    buf0 := bytesAt 0 [0x22, 0x22, 0x22], buf1 := bytesAt 0 [0x11, 0x11, 0x11] }

theorem test_copy_byte : after (step (copying 1)) (fun t => (t.copyIdx, t.buf0, t.cmdState)) =
    some (2, bytesAt 0 [0x22, 0x11, 0x22], .copy) := by decide
theorem test_copy_end : after (step (copying 324)) (fun t => (t.copyIdx, t.cmdState)) = some (324, .idle) := by decide

/-! ## Configuration commands (section 2.5) -/

theorem test_setbrt_clamps : after (exec (.setbrt 20) (State.resetOf tv1)) (fun t => (t.cfgBright, t.err)) = some (15, false) := by decide
theorem test_setdrk_keeps : after (exec (.setdrk 3) (State.resetOf tv1)) (·.cfgDark) = some 3 := by decide
theorem test_setivl_raises : after (exec (.setivl 99) (State.resetOf tv1)) (·.cfgInterval) = some 100 := by decide
theorem test_setivl_keeps : after (exec (.setivl 0xFFFF) (State.resetOf tv1)) (·.cfgInterval) = some 65535 := by decide
theorem test_setord : after (exec (.setord 1) (State.resetOf tv1)) (·.cfgBitorder) = some .lsbFirst := by decide
theorem test_setlay : after (exec (.setlay 1) (State.resetOf tv1)) (·.cfgLayout) = some .v := by decide
theorem test_setlay_G11 : after (exec (.setlay 2) { State.resetOf tv1 with cfgLayout := .v }) (fun t => (t.cfgLayout, t.err, t.errcode)) =
    some (.v, true, 5) := by decide
theorem test_setinv : after (exec (.setinv 1) (State.resetOf tv1)) (·.cfgInvert) = some true := by decide
theorem test_setilc : after (exec (.setilc 1) (State.resetOf tv1)) (·.cfgInterlace) = some true := by decide
theorem test_setgry : after (exec (.setgry 1) (State.resetOf tv1)) (·.cfgGrey) = some true := by decide
theorem test_getcfg_G13 : after (exec (.getcfg 2) (State.resetOf tv1)) (·.responses) = some [0x0064] := by decide
theorem test_getcfg_G15 : after (exec (.getcfg 8) { State.resetOf tv1 with sync := true, frontSel := true, err := true, errcode := 5 })
    (·.responses) = some [0x002F] := by decide
/-- The first error's code stays (P4). -/
theorem test_first_error : after (exec (.getcfg 9) { State.resetOf tv1 with err := true, errcode := 1 }) (·.errcode) = some 1 := by decide

/-! ## Buffer access (section 2.6) and reset -/

theorem test_nop : after (exec .nop (State.resetOf tv1)) id = some (State.resetOf tv1) := by decide
theorem test_wrb_B1 : after (exec (.wrb 0 0x80) (State.resetOf tv1)) (fun t => (t.buf0, t.buf1)) = some ([], [(0, 0x80)]) := by decide
theorem test_wrb_B4 : after (exec (.wrb 324 0) (State.resetOf tv1)) (fun t => (t.buf1, t.err, t.errcode)) = some ([], true, 3) := by decide
theorem test_rdb_B1 : after (exec (.rdb 0) { State.resetOf tv1 with buf1 := [(0, 0x80)] }) (·.responses) = some [0x0080] := by decide
theorem test_wrb_keeps_order : Memory.write [(3, 1), (9, 2)] 5 7 = [(3, 1), (5, 7), (9, 2)] := by decide
theorem test_reset_keeps_buffers :
    after (step { copying 1 with schedule := [.resetInput], err := true }) (fun t => (t.cmdState, t.err, t.copyIdx, t.buf1)) =
      some (.idle, false, 0, bytesAt 0 [0x11, 0x11, 0x11]) := by decide
/-- The first step after reset runs the placed word, on the default machine. -/
theorem test_fetch_word : after (step (State.reset.withFetchWord 32 0x61000003)) (·.cfgDark) = some 3 := by decide
theorem test_fetch_tick : after (step (State.reset.withFetchWord 1 1)) (fun t => (t.lrow, t.pprev)) = some (1, 0) := by decide
theorem test_idle : after (step (State.resetOf tv1)) id = some (State.resetOf tv1) := by decide
/-- A script as R104 reads: a command, ticks, the arbitrator, the copy. -/
theorem test_script : ((State.resetOf tv1).loadScript [.command 0x40000000, .tick 2, .arb, .copy 1]).schedule =
    [.producer, .scheduler, .scheduler, .arbitrator, .copyEngine] := by decide

/-! ## Witnesses: for each statement with hypotheses, a state and operands that meet them, each clause at its boundary -/

/-- The state in which the word `w` is presented at an open port. -/
def offered (w : Word) : State := { State.resetOf tv1 with commands := [w], schedule := [.producer] }

/-- Reset values with one turn scheduled. -/
def ready (t : Turn) : State := { State.resetOf tv1 with schedule := [t] }

theorem witness_encode_of_decoded :
    decode (.word 0x10014301) = .ok (.wrb 323 1) ∧ decode .strobe = .ok .tick := by decide

theorem witness_classified (w : Word) :
    (offered w).schedule = .producer :: [] ∧ (offered w).commands = w :: [] ∧ (offered w).cmdState = .idle := ⟨rfl, rfl, rfl⟩

/-- Each check of R99 at its boundary: the last legal value and the first illegal one, and check 2 before check 4. -/
theorem witness_classified_checks :
    [0x7FFFFFFF, 0x80000000, 0x00000000, 0x00000001, 0x10014300, 0x10014400, 0x20014300, 0x20014400, 0x67000000, 0x68000000,
      0x78000000, 0x79000000, 0x63000001, 0x63000002, 0x6200FFFF, 0x68010002].map (firstFailingCheck tv1.toCfgp) =
    [some 2, some 1, none, some 2, none, some 3, none, some 3, none, some 4, none, some 4, none, some 5, none, some 2] := by decide

theorem witness_pseudo :
    ([Instr.setbrt, .setdrk, .setivl, .setord, .setlay, .setinv, .setilc, .setgry][(7 : BitVec 4).toNat]?).isSome = true ∧
    8 ≤ (8 : BitVec 4).toNat ∧ 323 < tv1.fbLen ∧ ¬ 324 < tv1.fbLen := by decide

theorem witness_step_runs :
    (offered 0x10014301).schedule = .producer :: [] ∧ (offered 0x10014301).commands = 0x10014301 :: [] ∧
      (offered 0x10014301).cmdState = .idle ∧ decode (.word 0x10014301) = .ok (.wrb 323 1) ∧
      (ready .scheduler).schedule = .scheduler :: [] ∧ decodeTableWord 32 0x78000000 = some (.getcfg 8) ∧
      decodeTableWord 1 1 = some .tick := by decide

theorem witness_closed_port : ({ copying 0 with schedule := [.producer] } : State).cmdState ≠ .idle ∧
    ({ copying 0 with schedule := [.producer] } : State).schedule = .producer :: [] ∧ Instr.nop ≠ .tick := by decide

/-- The premise `step s = .next t`, for each agent's turn and for reset. -/
theorem witness_step_next (a : Turn) : ∃ t, step (ready a) = .next t := by cases a <;> exact ⟨_, rfl⟩

theorem witness_nop : (State.resetOf tv1).cmdState = .idle ∧ (0x0FFFFFFF : Word).toNat < 2 ^ 28 ∧ (0x0FFFFFFF : Word) ≠ 0 ∧
    (1 : Word).toNat < 2 ^ 28 ∧ (1 : Word) ≠ 0 := by decide

/-- WRB and RDB, legal and illegal, and RDB after WRB: offsets 0, 323, 324 and 65535. -/
theorem witness_buffer_access : (State.resetOf tv1).cmdState = .idle ∧ (0 : Half).toNat < tv1.fbLen ∧ (323 : Half).toNat < tv1.fbLen ∧
    tv1.fbLen ≤ (324 : Half).toNat ∧ tv1.fbLen ≤ (65535 : Half).toNat := by decide

/-- The same premises, of the setters, GETCFG and the synchronisation commands: an open port, and the first illegal operands. -/
theorem witness_operands : (State.resetOf tv1).cmdState = .idle ∧ 9 ≤ (9 : BitVec 4).toNat ∧ 9 ≤ (15 : BitVec 4).toNat ∧
    1 < (2 : Half).toNat ∧ 1 < (65535 : Half).toNat := by decide

/-- `FILL 0x5A` loaded. -/
def filling : State :=
  { State.resetOf tv1 with commands := pseudoFill tv1.toCfgp 0x5A ++ [], schedule := List.replicate tv1.fbLen .producer ++ [] }

theorem witness_fill : filling.cmdState = .idle ∧ filling.commands = pseudoFill filling.cfgp.toCfgp 0x5A ++ [] ∧
    filling.schedule = List.replicate filling.cfgp.fbLen .producer ++ [] := ⟨rfl, rfl, rfl⟩

/-- Every selector of GETCFG from 0 to 8 has its value. -/
theorem witness_getcfg (s : State) (sel : BitVec 4) (h : sel.toNat ≤ 8) :
    ∃ v, [s.cfgBright.toNat, s.cfgDark.toNat, s.cfgInterval.toNat, if s.cfgBitorder = .lsbFirst then 1 else 0,
      if s.cfgLayout = .v then 1 else 0, s.cfgInvert.toNat, s.cfgInterlace.toNat, s.cfgGrey.toNat,
      s.sync.toNat + 2 * s.frontSel.toNat + 4 * s.err.toNat + 8 * s.errcode.toNat][sel.toNat]? = some v :=
  ⟨_, List.getElem?_eq_getElem (Nat.lt_succ_of_le h)⟩

/-- The rows, phases, flags, address modes and orders that the clauses about a tick tell apart. -/
theorem witness_tick : beforeT2.lrow = 17 ∧ (State.resetOf tv1).lrow ≠ 17 ∧ (State.resetOf tv1).lrow = 0 ∧
    (State.resetOf tv1).phase = false ∧ ({ State.resetOf tv1 with phase := true } : State).phase = true ∧ beforeT2.lrow ≠ 0 ∧
    beforeT2.cfgInterlace = false ∧ ({ beforeT2 with cfgInterlace := true } : State).cfgInterlace = true ∧
    tv1.addrInline = false ∧ tv1L.addrInline = true ∧ tv1.order = .shiftThenLatch ∧ tv1L.order = .latchThenShift := by decide

/-- The start of a frame with the interlace flag `il`. -/
def frameStart (il : Bool) : State := { State.resetOf tv1 with cfgInterlace := il, prow := tv1.physRow il 0 }

theorem witness_frame : ∀ il, (frameStart il).cfgInterlace = il ∧ (frameStart il).lrow = 0 ∧
    (frameStart il).prow = (frameStart il).cfgp.physRow (frameStart il).cfgInterlace 0 ∧
    (frameStart il).prow = (frameStart il).cfgp.physRow (frameStart il).cfgInterlace (frameStart il).lrow := by decide

theorem witness_greyscale : ({ frameStart false with cfgGrey := true } : State).cfgGrey = true ∧
    ({ frameStart false with cfgGrey := true } : State).lrow = 0 ∧ (frameStart false).cfgGrey = false := by decide

/-- `bufV tv1` with another back buffer. -/
def otherBack : State := { bufV tv1 with buf1 := bytesAt 0 zeros }

theorem witness_back_buffer_unseen : (bufV tv1).cfgGrey = false ∧
    otherBack = { bufV tv1 with buf0 := otherBack.buf0, buf1 := otherBack.buf1 } ∧
    otherBack.buf (bufV tv1).frontSel = (bufV tv1).buf (bufV tv1).frontSel ∧ otherBack.buf1 ≠ (bufV tv1).buf1 := by decide

theorem witness_compose : 0 < tv1.rowBytes ∧ 17 < tv1.rowBytes ∧ ¬ 18 < tv1.rowBytes ∧ tv1.addrInline = false ∧
    tv1L.addrInline = true := by decide

/-- Row 2 of V1 is zero except its byte 1; row 3 is all zero, so it meets the premise at its first and its last byte. -/
theorem witness_single_byte :
    (∀ q, q < tv1.rowBytes → q ≠ 1 → (bufV tv1).bufRead false ((2 : Row).val * tv1.rowBytes + q) = 0) ∧
    (∀ q, q < tv1.rowBytes → q ≠ 0 → (bufV tv1).bufRead false ((3 : Row).val * tv1.rowBytes + q) = 0) ∧
    (∀ q, q < tv1.rowBytes → q ≠ 17 → (bufV tv1).bufRead false ((3 : Row).val * tv1.rowBytes + q) = 0) := by decide

/-- `bufV tv1` with the byte before row 2 written. -/
def otherRow : State := { bufV tv1 with buf0 := (35, 0xFF) :: (bufV tv1).buf0 }

theorem witness_row_only : otherRow.cfgp = (bufV tv1).cfgp ∧
    ∀ j, j < tv1.rowBytes → otherRow.bufRead false ((2 : Row).val * tv1.rowBytes + j) =
      (bufV tv1).bufRead false ((2 : Row).val * tv1.rowBytes + j) := by decide

theorem witness_offsets : (tv1.bsm .h)[0]? = some 0 ∧ (tv1.bsm .v)[17]? = some 0 ∧ 0 < tv1.fbLen ∧ 323 < tv1.fbLen := by decide

theorem witness_arbitrator : (window .waitSwap).schedule = .arbitrator :: [] ∧ (window .waitSwap).sync = true ∧
    (window .waitSwap).cmdState = .waitSwap ∧ (window .waitSwapc).cmdState = .waitSwapc ∧ (window .waitSync).cmdState = .waitSync ∧
    (window .idle).cmdState = .idle ∧ (window .copy).cmdState = .copy ∧
    ({ window .waitSwap with sync := false } : State).sync = false := by decide

theorem witness_copy_engine : (copying 0).schedule = .copyEngine :: [] ∧ (copying 0).cmdState = .copy ∧
    (copying 0).copyIdx.toNat < tv1.fbLen ∧ (copying 323).copyIdx.toNat < tv1.fbLen ∧ tv1.fbLen ≤ (copying 324).copyIdx.toNat ∧
    (ready .copyEngine).schedule = .copyEngine :: [] ∧ (ready .copyEngine).cmdState ≠ .copy := by decide

/-- A copy about to run to its end. -/
def copyScheduled : State := { copying 0 with schedule := List.replicate (tv1.fbLen + 1) .copyEngine ++ [] }

theorem witness_copy_runs : copyScheduled.cmdState = .copy ∧ copyScheduled.copyIdx = 0 ∧
    copyScheduled.schedule = List.replicate (copyScheduled.cfgp.fbLen + 1) .copyEngine ++ [] := ⟨rfl, rfl, rfl⟩

/-- The byte 0x11 at the `n` offsets from `k` on. -/
def filled (k n : Nat) : Memory := (List.range' k n).map fun i => (i, 0x11)

theorem filled_read (n : Nat) : ∀ k off, k ≤ off → off < k + n → (filled k n).read off = some 0x11 := by
  induction n with
  | zero => intro k off h1 h2; omega
  | succ n ih =>
    intro k off h1 h2
    simp only [filled, List.range'_succ, List.map_cons, Memory.read]
    split_ifs with h
    · rfl
    · exact ih (k + 1) off (by omega) (by omega)

theorem filled_wf (k n : Nat) : (filled k n).wf :=
  List.pairwise_map.2 (List.pairwise_lt_range')

theorem filled_range {k n : Nat} {x : Host.Cell} (h : x ∈ filled k n) : x.1 < k + n := by
  obtain ⟨i, hi, rfl⟩ := List.mem_map.1 h
  have := List.mem_range'_1.1 hi
  exact this.2

/-- Every byte copied, the copy's final step next. -/
def copied : State := { copying 324 with buf0 := filled 0 324, buf1 := filled 0 324 }

theorem copied_inv : Inv copied where
  prow_image := ⟨false, by decide⟩
  pprev_image := ⟨false, by decide⟩
  sync_first_row := by decide
  apulse_le := by decide
  bright_le := by decide
  dark_le := by decide
  interval_ge := by decide
  copyIdx_le := by decide
  copied_below := by
    intro _ off h
    have h' : off < 0 + 324 := by rw [Nat.zero_add]; exact h
    have e := filled_read 324 0 off (Nat.zero_le _) h'
    have e0 : (copied.buf false).read off = some 0x11 := e
    have e1 : (copied.buf true).read off = some 0x11 := e
    have hf : copied.frontSel = true := rfl
    simp only [State.bufRead, hf, Bool.not_true, e0, e1, Option.getD_some]
  no_error_code := by decide
  error_code := by decide
  buf_wf := fun b => by cases b <;> exact filled_wf 0 324
  buf_range := fun b x h => by cases b <;> (have := filled_range (k := 0) (n := 324) h; rwa [Nat.zero_add] at this)
  trace_legal := by simp [copied, copying, State.resetOf]

theorem witness_copy_end : Inv copied ∧ copied.cmdState = .copy ∧ copied.schedule.head? ≠ some .resetInput ∧
    ∃ t, step copied = .next t ∧ t.cmdState ≠ .copy :=
  ⟨copied_inv, rfl, by decide, _, rfl, by decide⟩

/-- The invariants hold in a sync window with a pending command, also with `BUF[1]` in front. -/
theorem window_inv (c : CmdState) (h : c ≠ .copy) (f : Bool) (ts : List Turn) :
    Inv { window c with frontSel := f, schedule := ts } where
  prow_image := ⟨false, rfl⟩
  pprev_image := ⟨false, rfl⟩
  sync_first_row := fun _ => rfl
  apulse_le := Nat.zero_le _
  bright_le := Nat.zero_le _
  dark_le := Nat.zero_le _
  interval_ge := Nat.le_refl _
  copyIdx_le := Nat.zero_le _
  copied_below := fun hc => absurd hc h
  no_error_code := fun _ => rfl
  error_code := fun he => Bool.noConfusion he
  buf_wf := fun b => by cases b <;> exact List.Pairwise.nil
  buf_range := fun b x hx => by cases b <;> exact absurd hx List.not_mem_nil
  trace_legal := fun _ hx => absurd hx List.not_mem_nil

/-- The designation changes in the window, by SWAP and by SWAPC, and by reset. -/
theorem witness_designation :
    (Inv { window .waitSwap with frontSel := false, schedule := [.arbitrator] } ∧
      ∃ t, step (window .waitSwap) = .next t ∧ t.frontSel ≠ (window .waitSwap).frontSel) ∧
    (Inv { window .waitSwapc with frontSel := false, schedule := [.arbitrator] } ∧
      ∃ t, step (window .waitSwapc) = .next t ∧ t.frontSel ≠ (window .waitSwapc).frontSel) ∧
    (Inv { window .waitSwap with frontSel := true, schedule := [.resetInput] } ∧
      ∃ t, step { window .waitSwap with frontSel := true, schedule := [.resetInput] } = .next t ∧ t.frontSel ≠ true) :=
  ⟨⟨window_inv _ (by decide) _ _, _, rfl, by decide⟩, ⟨window_inv _ (by decide) _ _, _, rfl, by decide⟩,
   ⟨window_inv _ (by decide) _ _, _, rfl, by decide⟩⟩

/-- A SWAP presented in an open window. -/
def swapInWindow : State := { window .idle with schedule := [.producer, .arbitrator], commands := [0x30000000] }

theorem witness_swap_in_window : swapInWindow.cmdState = .idle ∧ swapInWindow.sync = true ∧
    swapInWindow.schedule = .producer :: .arbitrator :: [] ∧ swapInWindow.commands = 0x30000000 :: [] := by decide

/-- A SWAP pending at logical row `r`, the rest of the frame scheduled. -/
def swapPending (r : Row) : State :=
  { window .waitSwap with sync := false, lrow := r, schedule := List.replicate (18 - r.val) .scheduler ++ .arbitrator :: [] }

theorem witness_swap_pending : ∀ r : Row, (swapPending r).cmdState = .waitSwap ∧
    (swapPending r).schedule = List.replicate (18 - (swapPending r).lrow.val) .scheduler ++ .arbitrator :: [] := by decide

/-- A command pending outside the window, with every agent but the scheduler taking its turn. -/
def waiting (c : CmdState) : State := { window c with sync := false, schedule := [.producer, .arbitrator, .copyEngine] }

theorem witness_waiting : (waiting .waitSwap).sync = false ∧ (waiting .waitSwap).cmdState = .waitSwap ∧
    (waiting .waitSwapc).cmdState = .waitSwapc ∧ (waiting .waitSync).cmdState = .waitSync ∧
    ∀ t ∈ (waiting .waitSwap).schedule, t ≠ .scheduler ∧ t ≠ .resetInput := by decide

/-- A producer turn that writes a register, with an error recorded before: the premises of the statements on who writes what. -/
theorem witness_who_writes : (∃ t, step { offered 0x60000005 with err := true } = .next t ∧ t.cfgBright = 5) ∧
    ({ offered 0x60000005 with err := true } : State).err = true ∧ (offered 0x60000005).schedule.head? ≠ some .scheduler ∧
    (offered 0x60000005).schedule.head? ≠ some .resetInput ∧ (ready .copyEngine).schedule.head? ≠ some .producer :=
  ⟨⟨_, rfl, by decide⟩, rfl, by decide, by decide, by decide⟩

theorem witness_reset_values : tv1.rstInterlace = false ∧
    ({ toCfgp := { rawTV 1 with rstInterlace := true }, wf := by decide } : WfCfgp).rstInterlace = true := by decide

theorem witness_reset_turn : (ready .resetInput).schedule = .resetInput :: [] := rfl

theorem witness_invariants : Inv { window .waitSwap with frontSel := false, schedule := [.scheduler] } ∧
    ∃ t, step { window .waitSwap with frontSel := false, schedule := [.scheduler] } = .next t :=
  ⟨window_inv _ (by decide) _ _, _, rfl⟩

end Sys2Proof.Tests
end

section
/-! SUPPORT. What every turn keeps: one rule that lifts a property from the kinds of turn to a step, and from it the constancy of the configuration record. -/

namespace Sys2Proof.Machine

/-- A property kept by whatever a turn can do: taking its inputs, a tick, a command error, an accepted command, and the internal
steps of the arbitrator, the copy engine and the reset input (R68, R263). -/
structure TurnInvariant (P : State → Prop) : Prop where
  inputs : ∀ {s : State} (ts : List Turn) (ws : List Word), P s → P { s with schedule := ts, commands := ws }
  tick : ∀ {s : State}, P s → P s.tick
  error : ∀ {s : State} (c : ErrCode), P s → P (s.error c)
  effect : ∀ {s : State} {i : Instr}, i ≠ .tick → s.cmdState = .idle → P s → P (effect i s)
  arbStep : ∀ {s : State}, P s → P s.arbStep
  copyStep : ∀ {s : State}, P s → P s.copyStep
  applyReset : ∀ {s : State}, P s → P s.applyReset

/-- A step keeps what every turn keeps. -/
theorem TurnInvariant.step {P : State → Prop} (hP : TurnInvariant P) {s t : State} (hs : P s)
    (hst : Machine.step s = .next t) : P t := by
  have hsched (ts : List Turn) : P (s.withSchedule ts) := hP.inputs ts s.commands hs
  rcases step_shape hst with rfl | ⟨_, ts, -, ⟨-, rfl⟩ | ⟨-, hprod⟩ | ⟨-, rfl⟩ | ⟨-, rfl⟩ | ⟨-, rfl⟩⟩
  · exact hs
  · exact hP.tick (hsched ts)
  · rcases hprod with rfl | ⟨hidle, ws, ⟨c, rfl⟩ | ⟨i, hi, rfl⟩⟩
    · exact hsched ts
    · exact hP.error c (hP.inputs ts ws hs)
    · exact hP.effect hi hidle (hP.inputs ts ws hs)
  · exact hP.arbStep (hsched ts)
  · exact hP.copyStep (hsched ts)
  · exact hP.applyReset (hsched ts)

@[simp] theorem arbStep_cfgp (s : State) : s.arbStep.cfgp = s.cfgp := by
  rcases arbStep_cases s with ⟨-, -, h⟩ | ⟨-, -, h⟩ | ⟨-, -, h⟩ | ⟨-, h⟩ <;> simp [h]

@[simp] theorem copyStep_cfgp (s : State) : s.copyStep.cfgp = s.cfgp := by
  rcases copyStep_cases s with ⟨-, h⟩ | ⟨-, -, h⟩ | ⟨-, -, h⟩ <;> simp [h]

theorem effect_cfgp {i : Instr} (hi : i ≠ .tick) (s : State) : (effect i s).cfgp = s.cfgp := by
  rcases effect_cases i s hi with h | ⟨_, _, _, h⟩ | ⟨_, h⟩ | ⟨_, h⟩ | ⟨_, _, _, h⟩ | ⟨_, _, h⟩ | ⟨_, _, h⟩ | ⟨_, _, h⟩ |
    ⟨_, h⟩ | ⟨_, h⟩ | ⟨_, h⟩ | ⟨_, h⟩ | ⟨_, h⟩ <;> simp [h]

theorem turnInvariant_cfgp_eq (c : WfCfgp) : TurnInvariant fun s => s.cfgp = c where
  inputs _ _ h := h
  tick h := h
  error _ h := h
  effect hi _ h := (effect_cfgp hi _).trans h
  arbStep h := (arbStep_cfgp _).trans h
  copyStep h := (copyStep_cfgp _).trans h
  applyReset h := h

/-- Settles O9: each kind of turn keeps the record, so a step does. -/
theorem configurationRecordIsConstant : Obligations.ConfigurationRecordIsConstant :=
  fun s _ hst => (turnInvariant_cfgp_eq s.cfgp).step rfl hst

end Sys2Proof.Machine
end

section
/-! SUPPORT. The invariants of the architectural state under each update, and so under every step. -/

namespace Sys2Proof.Machine

/-! ## Facts about the updates -/

theorem errCode_code_range (c : ErrCode) : 1 ≤ c.code.toNat ∧ c.code.toNat ≤ 5 := by
  cases c <;> decide

theorem nextPulse_cases (s : State) : s.nextPulse = s.cfgDark ∨ s.nextPulse = s.cfgBright ∨ s.nextPulse = s.apulse := by
  unfold State.nextPulse
  split_ifs <;> simp

theorem rowaddrRecords_legal (s : State) : ∀ e ∈ s.rowaddrRecords, e.legal s.cfgp.toCfgp := by
  unfold State.rowaddrRecords
  split_ifs with h <;> simp [TxRecord.legal, h]

/-- What a tick emits is legal when its pulse width is (R97, R30, R149). -/
theorem tickRecords_legal {s : State} {d : Half} (hd : d.toNat ≤ s.cfgp.pulseMax.toNat) :
    ∀ e ∈ s.tickRecords d, e.legal s.cfgp.toCfgp := by
  have hrow : (TxRecord.shift s.composedRow).legal s.cfgp.toCfgp := compose_length s _ _ _ _ _ _
  have haddr := rowaddrRecords_legal s
  unfold State.tickRecords
  cases s.cfgp.order <;> simp only [List.forall_mem_append, List.forall_mem_cons]
  · exact ⟨⟨⟨trivial, hrow, nofun⟩, haddr⟩, trivial, hd, nofun⟩
  · exact ⟨⟨⟨trivial, nofun⟩, haddr⟩, trivial, hrow, hd, nofun⟩

theorem bufWrite_eq (s : State) (b : Bool) (off : Nat) (v : Byte) :
    s.bufWrite b off v = { s with buf0 := (s.bufWrite b off v).buf0, buf1 := (s.bufWrite b off v).buf1 } := by
  cases b <;> rfl

theorem wf_buf_bufWrite {s : State} (h : ∀ c, (s.buf c).wf) (b : Bool) (off : Nat) (v : Byte) (c : Bool) :
    ((s.bufWrite b off v).buf c).wf := by
  rw [State.buf_bufWrite]
  split_ifs
  · exact Memory.wf_write off v (h c)
  · exact h c

theorem range_buf_bufWrite {s : State} {n off : Nat} (h : ∀ c, ∀ x ∈ s.buf c, x.1 < n) (hoff : off < n) (b : Bool) (v : Byte)
    (c : Bool) : ∀ x ∈ (s.bufWrite b off v).buf c, x.1 < n := by
  rw [State.buf_bufWrite]
  split_ifs
  · intro x hx
    rcases Memory.mem_write hx with rfl | hx
    · exact hoff
    · exact h c x hx
  · exact h c

/-! ## The invariants under each update -/

/-- R281: the invariants hold after reset. -/
theorem inv_resetOf (c : WfCfgp) : Inv (State.resetOf c) where
  prow_image := ⟨c.rstInterlace, rfl⟩
  pprev_image := ⟨c.rstInterlace, rfl⟩
  sync_first_row := fun _ => rfl
  apulse_le := Nat.zero_le _
  bright_le := Nat.zero_le _
  dark_le := Nat.zero_le _
  interval_ge := Nat.le_refl _
  copyIdx_le := Nat.zero_le _
  copied_below := nofun
  no_error_code := fun _ => rfl
  error_code := nofun
  buf_wf := fun b => by cases b <;> exact List.Pairwise.nil
  buf_range := fun b _ hx => by cases b <;> exact absurd hx List.not_mem_nil
  trace_legal := nofun

namespace Inv

variable {s : State}

theorem setInputs (h : Inv s) (ts : List Turn) (ws : List Word) : Inv { s with schedule := ts, commands := ws } :=
  { h with }

theorem nextPulse_le (h : Inv s) : s.nextPulse.toNat ≤ s.cfgp.pulseMax.toNat := by
  rcases nextPulse_cases s with e | e | e <;> rw [e]
  · exact h.dark_le
  · exact h.bright_le
  · exact h.apulse_le

theorem tick (h : Inv s) : Inv s.tick :=
  { h with
    prow_image := ⟨s.cfgInterlace, rfl⟩
    pprev_image := by
      rw [State.tick_pprev, State.tick_lrow, prevRow_nextRow]
      exact h.prow_image
    sync_first_row := of_decide_eq_true
    apulse_le := h.nextPulse_le
    trace_legal := List.forall_mem_append.2 ⟨h.trace_legal, tickRecords_legal h.nextPulse_le⟩ }

theorem error (h : Inv s) (c : ErrCode) : Inv (s.error c) :=
  { h with
    no_error_code := nofun
    error_code := fun _ => by
      rw [State.error_errcode]
      split_ifs with he
      · exact h.error_code he
      · exact errCode_code_range c }

/-- Any state of the port but COPY may be entered: the clause on copied bytes speaks of a running copy only (R34). -/
theorem setCmdState (h : Inv s) {c : CmdState} (hc : c ≠ .copy) : Inv { s with cmdState := c } :=
  { h with copied_below := fun e => absurd e hc }

/-- A write into the back buffer keeps the invariants, if a running copy has not yet reached its offset (R34, R46). -/
theorem bufWrite_back (h : Inv s) {off : Nat} (v : Byte) (hoff : off < s.cfgp.fbLen)
    (hcopy : s.cmdState = .copy → s.copyIdx.toNat ≤ off) : Inv (s.bufWrite (!s.frontSel) off v) := by
  rw [bufWrite_eq]
  exact { h with
    copied_below := fun hc o ho => by
      have hne : off ≠ o := Nat.ne_of_gt (Nat.lt_of_lt_of_le ho (hcopy hc))
      have hkeep (b : Bool) : (s.bufWrite (!s.frontSel) off v).bufRead b o = s.bufRead b o := by
        simp [State.bufRead_bufWrite, hne]
      exact (hkeep _).trans ((h.copied_below hc o ho).trans (hkeep _).symm)
    buf_wf := wf_buf_bufWrite h.buf_wf _ _ _
    buf_range := range_buf_bufWrite h.buf_range hoff _ _ }

/-- The copy index moves on past a byte that both buffers hold alike (R34, R179). -/
theorem advanceCopyIdx (h : Inv s) (hlt : s.copyIdx.toNat < s.cfgp.fbLen)
    (heq : s.bufRead (!s.frontSel) s.copyIdx.toNat = s.bufRead s.frontSel s.copyIdx.toNat) :
    Inv { s with copyIdx := s.copyIdx + 1 } := by
  have hsucc : (s.copyIdx + 1).toNat = s.copyIdx.toNat + 1 := by
    have := fbLen_le s.cfgp
    rw [BitVec.toNat_add]
    exact Nat.mod_eq_of_lt (by simp; omega)
  exact { h with
    copyIdx_le := hsucc.trans_le hlt
    copied_below := fun hc o ho => by
      rcases Nat.lt_succ_iff_lt_or_eq.1 (Nat.lt_of_lt_of_eq ho hsucc) with hlt | rfl
      · exact h.copied_below hc o hlt
      · exact heq }

/-- An accepted command keeps the invariants: the port is open, so no copy is running (R33, R92). -/
theorem effect (h : Inv s) {i : Instr} (hi : i ≠ .tick) (hidle : s.cmdState = .idle) : Inv (effect i s) := by
  rcases effect_cases i s hi with e | ⟨off, v, hoff, e⟩ | ⟨_, e⟩ | ⟨c, e⟩ | ⟨_, -, hc, e⟩ | ⟨_, hv, e⟩ | ⟨_, hv, e⟩ | ⟨_, hv, e⟩ |
    ⟨_, e⟩ | ⟨_, e⟩ | ⟨_, e⟩ | ⟨_, e⟩ | ⟨_, e⟩ <;> rw [e]
  · exact h
  · exact h.bufWrite_back v (of_decide_eq_true hoff) (by simp [hidle])
  · exact { h with }
  · exact h.error c
  · exact h.setCmdState hc
  · exact { h with bright_le := hv }
  · exact { h with dark_le := hv }
  · exact { h with interval_ge := hv }
  all_goals exact { h with }

theorem arbStep (h : Inv s) : Inv s.arbStep := by
  rcases arbStep_cases s with ⟨-, -, e⟩ | ⟨-, -, e⟩ | ⟨-, -, e⟩ | ⟨-, e⟩ <;> rw [e]
  · exact { h with copied_below := nofun }
  · exact { h with copyIdx_le := Nat.zero_le _, copied_below := fun _ _ ho => absurd ho (Nat.not_lt_zero _) }
  · exact h.setCmdState nofun
  · exact h

theorem copyStep (h : Inv s) : Inv s.copyStep := by
  rcases copyStep_cases s with ⟨-, e⟩ | ⟨-, hlt, e⟩ | ⟨-, -, e⟩ <;> rw [e]
  · exact h
  · have hw := h.bufWrite_back (s.bufRead s.frontSel s.copyIdx.toNat) hlt fun _ => Nat.le_refl _
    simpa using hw.advanceCopyIdx (by simpa using hlt) (by simp [State.bufRead_bufWrite])
  · exact h.setCmdState nofun

theorem applyReset (h : Inv s) : Inv s.applyReset :=
  { inv_resetOf s.cfgp with copied_below := nofun, buf_wf := h.buf_wf, buf_range := h.buf_range }

end Inv

theorem turnInvariant_inv : TurnInvariant Inv where
  inputs ts ws h := h.setInputs ts ws
  tick h := h.tick
  error c h := h.error c
  effect hi hidle h := h.effect hi hidle
  arbStep h := h.arbStep
  copyStep h := h.copyStep
  applyReset h := h.applyReset

/-- Settles O52: each kind of turn keeps the invariants, so a step does. -/
theorem everyStepKeepsTheInvariants : Obligations.EveryStepKeepsTheInvariants :=
  fun _ _ hs hst => turnInvariant_inv.step hs hst

end Sys2Proof.Machine
end

section
/-! SUPPORT. The state after reset. -/

namespace Sys2Proof.Machine

/-- A well-formed record has an entry of the Interlace Map for every row (R7). -/
theorem imap_getElem? (c : WfCfgp) (r : Row) : c.imap[r.val]? = some (c.imapAt r) := by
  have hlen : c.imap.length = 18 := by simpa using (imap_bijectionOn c).1
  have hr : r.val < c.imap.length := Nat.lt_of_lt_of_eq r.isLt hlen.symm
  simp [Cfgp.imapAt, hr]

theorem physRow_false (c : Cfgp) (r : Row) : c.physRow false r = r := rfl

theorem physRow_true (c : Cfgp) (r : Row) : c.physRow true r = c.imapAt r := rfl

/-- Settles O49: the row registers by the two values of RST_INTERLACE, every other register at its listed value. -/
theorem resetValues : Obligations.ResetValues := by
  intro c s
  have hprow : s.prow = c.physRow c.rstInterlace 0 := rfl
  have hpprev : s.pprev = c.physRow c.rstInterlace 17 := rfl
  have hread (b : Bool) (off : Nat) : s.bufRead b off = Config.powerUpByte b off := by cases b <;> rfl
  refine ⟨rfl, fun hil => ?_, fun hil => ?_, rfl, rfl, rfl, rfl, rfl, rfl, rfl, rfl, rfl, rfl, rfl, rfl, rfl, rfl, rfl, rfl,
    hread, rfl⟩
  · simp [hprow, hpprev, hil, physRow_false]
  · rw [hprow, hpprev, hil, physRow_true, physRow_true]
    exact ⟨imap_getElem? c 0, imap_getElem? c 17⟩

end Sys2Proof.Machine
end

section
/-! SUPPORT. Illegal operands: what a command with one does at an open port is its command error and nothing else (R99, R252). -/

namespace Sys2Proof.Machine

variable {s : State}

theorem offsetLegal_eq_false {off : BitVec 16} (h : s.cfgp.fbLen ≤ off.toNat) : s.offsetLegal off = false :=
  decide_eq_false (Nat.not_lt.2 h)

theorem execWrb_of_illegal (hidle : s.cmdState = .idle) {off : BitVec 16} (data : Byte) (h : s.cfgp.fbLen ≤ off.toNat) :
    execWrb off data s = .next (s.error .offsetRange) := by
  simp [execWrb, hidle, offsetLegal_eq_false h]

theorem execRdb_of_illegal (hidle : s.cmdState = .idle) {off : BitVec 16} (h : s.cfgp.fbLen ≤ off.toNat) :
    execRdb off s = .next (s.error .offsetRange) := by
  simp [execRdb, hidle, offsetLegal_eq_false h]

theorem execGetcfg_of_reserved (hidle : s.cmdState = .idle) {sel : BitVec 4} (h : 9 ≤ sel.toNat) :
    execGetcfg sel s = .next (s.error .reservedSelector) := by
  simp [execGetcfg, hidle, (selectorValue_eq_none_iff s sel).2 h]

/-- Whichever register a 1-bit setter writes, an illegal immediate keeps it from being written (R201). -/
theorem setBit_of_illegal (hidle : s.cmdState = .idle) {imm : Half} (h : 1 < imm.toNat) (write : Bool → State) :
    setBit imm write s = .next (s.error .illegalValue) := by
  simp [setBit, hidle, oneBit_eq_none_iff.2 h]

/-- Settles O15: each check's lemma, at the instructions the check belongs to. -/
theorem illegalOperandsRecordTheirErrorOnly : Obligations.IllegalOperandsRecordTheirErrorOnly := by
  intro s hidle e
  refine ⟨fun off data h => ⟨?wrb, ?rdb⟩, fun sel h => ?getcfg, fun imm h => ?oneBit⟩
  case wrb => exact execWrb_of_illegal hidle data h
  case rdb => exact execRdb_of_illegal hidle h
  case getcfg => exact execGetcfg_of_reserved hidle h
  case oneBit =>
    have hset := setBit_of_illegal hidle h
    exact ⟨hset _, hset _, hset _, hset _, hset _⟩

end Sys2Proof.Machine
end

section
/-! SUPPORT. With greyscale off the engine reads the front buffer only, so machines that differ in their back buffers stay alike. -/

namespace Sys2Proof.Machine

/-- `t` is the machine `s` with greyscale off and, at most, another back buffer. -/
structure FrontAlike (s t : State) : Prop where
  grey_off : s.cfgGrey = false
  registers : t = { s with buf0 := t.buf0, buf1 := t.buf1 }
  front : t.buf s.frontSel = s.buf s.frontSel

/-- The data bytes depend on the tables and the one buffer they are read from (R120). -/
theorem compose_congr {s t : State} (hc : t.cfgp = s.cfgp) {b : Bool} (hb : t.buf b = s.buf b) (p : Row) (l : Layout) (m : Byte)
    (o : BitOrder) (a : Row) : compose t b p l m o a = compose s b p l m o a := by
  simp only [compose, composeData, composeAddr, State.bufRead, hc, hb]

theorem sourceBuffer_of_grey_off {s : State} (h : s.cfgGrey = false) : s.sourceBuffer = s.frontSel := by
  simp [State.sourceBuffer, h]

namespace FrontAlike

variable {s t : State}

theorem composedRow_eq (h : FrontAlike s t) : t.composedRow = s.composedRow := by
  obtain ⟨hgrey, hreg, hfront⟩ := h
  have hsource : t.sourceBuffer = s.frontSel := by
    rw [hreg]
    exact sourceBuffer_of_grey_off hgrey
  have hcfgp : t.cfgp = s.cfgp := by rw [hreg]
  calc t.composedRow
      = compose t s.frontSel s.prow s.cfgLayout s.invertMask s.cfgBitorder s.addrRow := by
        rw [State.composedRow, hsource, hreg]
        rfl
    _ = compose s s.frontSel s.prow s.cfgLayout s.invertMask s.cfgBitorder s.addrRow := compose_congr hcfgp hfront ..
    _ = s.composedRow := by rw [State.composedRow, sourceBuffer_of_grey_off hgrey]

theorem tickRecords_eq (h : FrontAlike s t) (d : Half) : t.tickRecords d = s.tickRecords d := by
  have haddr : t.rowaddrRecords = s.rowaddrRecords := by
    rw [h.registers]
    rfl
  have horder : t.cfgp.order = s.cfgp.order := by rw [h.registers]
  simp only [State.tickRecords, h.composedRow_eq, haddr, horder]

/-- A tick emits the same records on both machines, and writes no buffer. -/
theorem tick (h : FrontAlike s t) : FrontAlike s.tick t.tick where
  grey_off := h.grey_off
  registers := by
    have hrec := h.tickRecords_eq
    obtain ⟨-, hreg, -⟩ := h
    rw [tick_eq t, hrec, hreg]
    rfl
  front := h.front

theorem ticks (h : FrontAlike s t) (n : Nat) : FrontAlike (ticks n s) (ticks n t) := by
  induction n generalizing s t with
  | zero => exact h
  | succ n ih => exact ih h.tick

end FrontAlike

/-- Settles O29: the machines stay alike over the ticks, so their traces are the same. -/
theorem ticksDoNotSeeTheBackBufferWithoutGreyscale : Obligations.TicksDoNotSeeTheBackBufferWithoutGreyscale := by
  intro n s t hgrey hreg hfront
  have h : FrontAlike (ticks n s) (ticks n t) := FrontAlike.ticks ⟨hgrey, hreg, hfront⟩ n
  rw [h.registers]

end Sys2Proof.Machine
end

section
/-! SUPPORT. Offsets and transmit positions: the Byte Selector Map names each column of a row once, and an offset has one row and one
column (R61, R126). -/

namespace Sys2Proof.Machine

theorem bijectionOn_perm_range {n : Nat} {t : List Nat} (h : Cfgp.BijectionOn n t) : t.Perm (List.range n) := by
  obtain ⟨hlen, hlt, hnodup⟩ := h
  have hsub : t ⊆ List.range n := fun x hx => List.mem_range.2 (hlt x hx)
  exact (hnodup.subperm hsub).perm_of_length_le (by simp [hlen])

theorem bsm_lt {c : WfCfgp} {l : Layout} {i j : Nat} (h : (c.bsm l)[i]? = some j) : j < c.rowBytes := by
  obtain ⟨-, hlt, -⟩ := bsm_bijectionOn c l
  exact hlt j (List.mem_of_getElem? h)

theorem bsm_existsUnique_position (c : WfCfgp) (l : Layout) {j : Nat} (hj : j < c.rowBytes) :
    ∃! i : Nat, (c.bsm l)[i]? = some j := by
  have hbij := bsm_bijectionOn c l
  have hmem : j ∈ c.bsm l := (bijectionOn_perm_range hbij).mem_iff.2 (List.mem_range.2 hj)
  obtain ⟨-, -, hnodup⟩ := hbij
  obtain ⟨i, hi⟩ := List.mem_iff_getElem?.1 hmem
  refine ⟨i, hi, fun k hk => ?_⟩
  have hklt : k < (c.bsm l).length := (List.getElem?_eq_some_iff.1 hk).1
  exact (List.getElem?_inj hklt hnodup).1 (hk.trans hi.symm)

/-- An offset's row and column are its quotient and remainder by the row length. -/
theorem composeOffset_eq_iff (c : WfCfgp) (p : Row) {j off : Nat} (hj : j < c.rowBytes) :
    composeOffset c.toCfgp p j = off ↔ off / c.rowBytes = p.val ∧ off % c.rowBytes = j := by
  rw [Nat.div_mod_unique (Nat.zero_lt_of_lt hj), composeOffset, rowStride_eq, Nat.mul_comm]
  exact (and_iff_left hj).symm

/-- Settles O35: the row is the offset's quotient, the position the one at which the map names its remainder. -/
theorem frameReadsEveryOffsetExactlyOnce : Obligations.FrameReadsEveryOffsetExactlyOnce := by
  intro c l
  refine ⟨fun p i j hij => ⟨composeOffset_lt c p (bsm_lt hij), Nat.sub_le_of_le_add (fbLen_le c)⟩, fun off hoff => ?_⟩
  have hrow : off / c.rowBytes < 18 := Nat.div_lt_of_lt_mul (by simpa [Cfgp.fbLen, Nat.mul_comm] using hoff)
  have hcol : off % c.rowBytes < c.rowBytes := Nat.mod_lt _ (Nat.pos_of_ne_zero fun h => by simp [Cfgp.fbLen, h] at hoff)
  obtain ⟨i, hi, huniq⟩ := bsm_existsUnique_position c l hcol
  refine ⟨(⟨off / c.rowBytes, hrow⟩, i), ⟨_, hi, (composeOffset_eq_iff c _ hcol).2 ⟨rfl, rfl⟩⟩, ?_⟩
  rintro ⟨p, k⟩ ⟨j, hk, hj⟩
  obtain ⟨hp, rfl⟩ := (composeOffset_eq_iff c p (bsm_lt hk)).1 hj
  exact Prod.ext (Fin.ext hp.symm) (huniq k hk)

end Sys2Proof.Machine
end

section
/-! SUPPORT. Who writes a buffer: a command and the copy engine write the back buffer only, and no other turn writes one (R70, R71). -/

namespace Sys2Proof.Machine

/-- The front buffer does not see a write into the back buffer. -/
theorem bufRead_front_bufWrite_back (s : State) (b : Bool) (off o : Nat) (v : Byte) :
    (s.bufWrite (!b) off v).bufRead b o = s.bufRead b o := by
  simp [State.bufRead_bufWrite]

theorem bufRead_front_effect {i : Instr} (hi : i ≠ .tick) (s : State) (o : Nat) :
    (effect i s).bufRead s.frontSel o = s.bufRead s.frontSel o := by
  rcases effect_cases i s hi with e | ⟨_, _, -, e⟩ | ⟨_, e⟩ | ⟨_, e⟩ | ⟨_, -, -, e⟩ | ⟨_, -, e⟩ | ⟨_, -, e⟩ | ⟨_, -, e⟩ |
    ⟨_, e⟩ | ⟨_, e⟩ | ⟨_, e⟩ | ⟨_, e⟩ | ⟨_, e⟩ <;> rw [e]
  case inr.inl => exact bufRead_front_bufWrite_back ..
  all_goals rfl

@[simp] theorem bufRead_arbStep (s : State) (b : Bool) (o : Nat) : s.arbStep.bufRead b o = s.bufRead b o := by
  rcases arbStep_cases s with ⟨-, -, e⟩ | ⟨-, -, e⟩ | ⟨-, -, e⟩ | ⟨-, e⟩ <;> simp [e]

theorem bufRead_front_copyStep (s : State) (o : Nat) : s.copyStep.bufRead s.frontSel o = s.bufRead s.frontSel o := by
  rcases copyStep_cases s with ⟨-, e⟩ | ⟨-, -, e⟩ | ⟨-, -, e⟩ <;> rw [e]
  · exact bufRead_front_bufWrite_back s s.frontSel ..
  · rfl

/-- Settles O47, by the kinds of turn. -/
theorem noStepWritesTheFrontBuffer : Obligations.NoStepWritesTheFrontBuffer := by
  intro s t hst off
  rcases step_shape hst with rfl | ⟨_, ts, -, ⟨-, rfl⟩ | ⟨-, hprod⟩ | ⟨-, rfl⟩ | ⟨-, rfl⟩ | ⟨-, rfl⟩⟩
  · rfl
  · exact State.bufRead_tick (s.withSchedule ts) ..
  · rcases hprod with rfl | ⟨-, ws, ⟨c, rfl⟩ | ⟨i, hi, rfl⟩⟩
    · rfl
    · exact State.bufRead_error { s with schedule := ts, commands := ws } c ..
    · exact bufRead_front_effect hi { s with schedule := ts, commands := ws } off
  · exact bufRead_arbStep (s.withSchedule ts) ..
  · exact bufRead_front_copyStep (s.withSchedule ts) off
  · exact State.bufRead_applyReset (s.withSchedule ts) ..

end Sys2Proof.Machine
end

section
/-! SUPPORT. The decoder and the encoder, format by format: a word is its format's word exactly when its must-be-zero fields are zero, so
each command decodes to itself and each legal word is the encoding of what it decodes to (R93, R98, R103). -/

namespace Sys2Proof

variable {w : Word} {i j : Instr}

/-! ## A word and its fields -/

theorem fields_formatZ (op : BitVec 4) : Word.op (formatZ op) = op ∧ Word.restZ (formatZ op) = 0#28 := by
  have := op.isLt
  constructor <;> apply BitVec.eq_of_toNat_eq <;>
    simp only [Word.toNat_op, Word.toNat_restZ, toNat_formatZ, BitVec.toNat_zero] <;> omega

theorem formatZ_of_restZ_eq_zero (h : Word.restZ w = 0#28) : formatZ (Word.op w) = w := by
  have h := congrArg BitVec.toNat h
  apply BitVec.eq_of_toNat_eq
  simp only [Word.toNat_restZ, toNat_formatZ, Word.toNat_op, BitVec.toNat_zero] at *
  omega

theorem formatM_of_sel_eq_zero (h : Word.sel w = 0#4) : formatM (Word.op w) (Word.off w) (Word.data w) = w := by
  have h := congrArg BitVec.toNat h
  apply BitVec.eq_of_toNat_eq
  simp only [Word.toNat_sel, toNat_formatM, Word.toNat_op, Word.toNat_off, Word.toNat_data, BitVec.toNat_zero] at *
  omega

theorem formatC_of_mbzC_eq_zero (h : Word.mbzC w = 0#8) : formatC (Word.op w) (Word.sel w) (Word.imm w) = w := by
  have h := congrArg BitVec.toNat h
  apply BitVec.eq_of_toNat_eq
  simp only [Word.toNat_mbzC, toNat_formatC, Word.toNat_op, Word.toNat_sel, Word.toNat_imm, BitVec.toNat_zero] at *
  omega

/-! ## Decoding a word of each format -/

theorem decodeZ_formatZ (op : BitVec 4) (i : Instr) : decodeZ (formatZ op) i = .ok i :=
  if_pos (fields_formatZ op).2

theorem decodeWord_formatM_wrb (off : BitVec 16) (data : Byte) : decodeWord (formatM 1#4 off data) = .ok (.wrb off data) := by
  obtain ⟨hop, hsel, hoff, hdata⟩ := fields_formatM 1#4 off data
  simp [decodeWord, decodeWrb, hop, hsel, hoff, hdata]

theorem decodeWord_formatM_rdb (off : BitVec 16) : decodeWord (formatM 2#4 off 0#8) = .ok (.rdb off) := by
  obtain ⟨hop, hsel, hoff, hdata⟩ := fields_formatM 2#4 off 0#8
  simp [decodeWord, decodeRdb, hop, hsel, hoff, hdata]

theorem decodeWord_formatC_setcfg (sel : BitVec 4) (imm : Half) : decodeWord (formatC 6#4 sel imm) = setterOf sel imm := by
  obtain ⟨hop, hsel, hmbz, himm⟩ := fields_formatC 6#4 sel imm
  simp [decodeWord, decodeSetcfg, hop, hsel, hmbz, himm]

theorem decodeWord_formatC_getcfg (sel : BitVec 4) : decodeWord (formatC 7#4 sel 0#16) = .ok (.getcfg sel) := by
  obtain ⟨hop, hsel, hmbz, himm⟩ := fields_formatC 7#4 sel 0#16
  simp [decodeWord, decodeGetcfg, hop, hsel, hmbz, himm]

/-! ## What a word that a decoder accepts is -/

theorem decodeZ_eq_ok (h : decodeZ w i = .ok j) : i = j ∧ formatZ (Word.op w) = w := by
  unfold decodeZ at h
  split_ifs at h with hz
  exact ⟨Except.ok.inj h, formatZ_of_restZ_eq_zero hz⟩

theorem encode_of_decodeWrb (hop : Word.op w = 1#4) (h : decodeWrb w = .ok i) : encode i = .word w := by
  unfold decodeWrb at h
  split_ifs at h with hz
  cases h
  rw [encode, ← hop, formatM_of_sel_eq_zero hz]

theorem encode_of_decodeRdb (hop : Word.op w = 2#4) (h : decodeRdb w = .ok i) : encode i = .word w := by
  unfold decodeRdb at h
  split_ifs at h with hz
  obtain ⟨hsel, hdata⟩ := hz
  cases h
  rw [encode, ← hop, ← hdata, formatM_of_sel_eq_zero hsel]

theorem encode_of_setterOf {sel : BitVec 4} {imm : Half} (h : setterOf sel imm = .ok i) :
    encode i = .word (formatC 6#4 sel imm) := by
  unfold setterOf at h
  split at h <;> cases h
  all_goals
    rename_i hsel
    rw [(BitVec.toNat_eq_nat.1 hsel).2]
    rfl

theorem encode_of_decodeSetcfg (hop : Word.op w = 6#4) (h : decodeSetcfg w = .ok i) : encode i = .word w := by
  unfold decodeSetcfg at h
  split_ifs at h with hz
  rw [encode_of_setterOf h, ← hop, formatC_of_mbzC_eq_zero hz]

theorem encode_of_decodeGetcfg (hop : Word.op w = 7#4) (h : decodeGetcfg w = .ok i) : encode i = .word w := by
  unfold decodeGetcfg at h
  split_ifs at h with hz
  obtain ⟨hmbz, himm⟩ := hz
  cases h
  rw [encode, ← hop, ← himm, formatC_of_mbzC_eq_zero hmbz]

/-- The opcode picks the format, and the format's must-be-zero fields leave one word for each instruction (R98, R99). -/
theorem encode_of_decodeWord (h : decodeWord w = .ok i) : encode i = .word w := by
  have hop {n : Nat} (e : (Word.op w).toNat = n) : Word.op w = BitVec.ofNat 4 n := (BitVec.toNat_eq_nat.1 e).2
  unfold decodeWord at h
  split at h
  case h_2 e => exact encode_of_decodeWrb (hop e) h
  case h_3 e => exact encode_of_decodeRdb (hop e) h
  case h_7 e => exact encode_of_decodeSetcfg (hop e) h
  case h_8 e => exact encode_of_decodeGetcfg (hop e) h
  case h_9 => cases h
  all_goals
    rename_i e
    obtain ⟨rfl, hw⟩ := decodeZ_eq_ok h
    rw [← hw, hop e]
    rfl

/-- Settles O1, by the instruction: the decoder reads back the fields its format was built from. -/
theorem decodeOfEncodeIsTheInstruction : Obligations.DecodeOfEncodeIsTheInstruction := by
  intro i
  cases i with
  | nop => exact decodeZ_formatZ 0#4 .nop
  | wrb off data => exact decodeWord_formatM_wrb off data
  | rdb off => exact decodeWord_formatM_rdb off
  | swap => exact decodeZ_formatZ 3#4 .swap
  | swapc => exact decodeZ_formatZ 4#4 .swapc
  | wsync => exact decodeZ_formatZ 5#4 .wsync
  | setbrt imm => exact decodeWord_formatC_setcfg 0#4 imm
  | setdrk imm => exact decodeWord_formatC_setcfg 1#4 imm
  | setivl imm => exact decodeWord_formatC_setcfg 2#4 imm
  | setord imm => exact decodeWord_formatC_setcfg 3#4 imm
  | setlay imm => exact decodeWord_formatC_setcfg 4#4 imm
  | setinv imm => exact decodeWord_formatC_setcfg 5#4 imm
  | setilc imm => exact decodeWord_formatC_setcfg 6#4 imm
  | setgry imm => exact decodeWord_formatC_setcfg 7#4 imm
  | getcfg sel => exact decodeWord_formatC_getcfg sel
  | tick => rfl

/-- Settles O2: the strobe is TICK's only input, and a word is settled by its opcode. -/
theorem encodeOfDecodedInputIsTheInput : Obligations.EncodeOfDecodedInputIsTheInput := by
  intro p i h
  cases p with
  | word w => exact encode_of_decodeWord h
  | strobe =>
    cases h
    rfl

/-- Settles O4, by evaluating the decoder at each word. -/
theorem vectorWordsDecodeToTheirCommands : Obligations.VectorWordsDecodeToTheirCommands := by
  unfold Obligations.VectorWordsDecodeToTheirCommands
  decide

end Sys2Proof
end

section
/-! SUPPORT. The pseudo-instructions (R103): which command each selector of SETCFG stands for, and the words of FILL. -/

namespace Sys2Proof

theorem setterOf_of_lookup {sel : BitVec 4} {f : Half → Instr} (imm : Half)
    (h : [Instr.setbrt, .setdrk, .setivl, .setord, .setlay, .setinv, .setilc, .setgry][sel.toNat]? = some f) :
    setterOf sel imm = .ok (f imm) := by
  have hlt : sel.toNat < 8 := (List.getElem?_eq_some_iff.1 h).1
  unfold setterOf
  generalize sel.toNat = n at h hlt ⊢
  interval_cases n <;> (cases h; rfl)

theorem setterOf_of_reserved {sel : BitVec 4} (imm : Half) (h : 8 ≤ sel.toNat) : setterOf sel imm = .error .reservedSelector := by
  unfold setterOf
  split
  case h_9 => rfl
  all_goals omega

/-- An offset of the buffer fits the field `OFF` (R7, R93). -/
theorem toNat_ofNat_offset {c : WfCfgp} {off : Nat} (h : off < c.fbLen) : (BitVec.ofNat 16 off).toNat = off := by
  rw [BitVec.toNat_ofNat, Nat.mod_eq_of_lt (h.trans_le (Machine.fbLen_le c))]

/-- Settles O5: SETCFG by its selector's setter, GETSTAT as one word, FILL at each of its positions. -/
theorem pseudoInstructionsExpandToTheirCommands : Obligations.PseudoInstructionsExpandToTheirCommands := by
  refine ⟨fun sel imm f hf => ?setcfg, fun sel imm hsel => ?reserved, decodeWord_formatC_getcfg 8#4,
    fun c v => ⟨?length, fun off hoff => ?fill⟩⟩
  case setcfg => exact (decodeWord_formatC_setcfg sel imm).trans (setterOf_of_lookup imm hf)
  case reserved => exact (decodeWord_formatC_setcfg sel imm).trans (setterOf_of_reserved imm hsel)
  case length => simp [pseudoFill]
  case fill =>
    exact ⟨_, BitVec.ofNat 16 off, by simp [pseudoFill, hoff], toNat_ofNat_offset hoff, decodeWord_formatM_wrb ..⟩

end Sys2Proof
end

section
/-! SUPPORT. What a port input does when its turn comes: an open port runs the decoded instruction, a closed one holds the producer
(R92, R99). -/

namespace Sys2Proof.Machine

variable {s : State}

theorem isCommand_of_ne_tick {i : Instr} (h : i ≠ .tick) : i.isCommand = true := by
  cases i
  case tick => exact absurd rfl h
  all_goals rfl

theorem exec_of_busy (hbusy : s.cmdState ≠ .idle) {i : Instr} (hi : i ≠ .tick) : exec i s = .next s := by
  rw [exec_eq, if_pos ⟨isCommand_of_ne_tick hi, hbusy⟩]

theorem step_of_busy {ts : List Turn} (hbusy : s.cmdState ≠ .idle) (hsch : s.schedule = .producer :: ts) :
    step s = .next { s with schedule := ts } := by
  simp [step, State.fetch, hsch, State.turn, State.producerTurn, State.cmdReady, hbusy]

/-- Settles O7: a closed port by the model's ready signal, the passing turn and the held command. -/
theorem closedPortHoldsTheProducer : Obligations.ClosedPortHoldsTheProducer :=
  fun _ hbusy => ⟨beq_eq_false_iff_ne.2 hbusy, fun _ => step_of_busy hbusy, fun _ => exec_of_busy hbusy⟩

theorem step_producer_of_decode {w : Word} {ws : List Word} {ts : List Turn} {i : Instr} (hsch : s.schedule = .producer :: ts)
    (hcmd : s.commands = w :: ws) (hidle : s.cmdState = .idle) (hd : decodeWord w = .ok i) :
    step s = exec i { s with schedule := ts, commands := ws } := by
  rw [step_producer hsch hcmd hidle, hd]

theorem step_producer_of_reject {w : Word} {ws : List Word} {ts : List Turn} {e : ErrCode} (hsch : s.schedule = .producer :: ts)
    (hcmd : s.commands = w :: ws) (hidle : s.cmdState = .idle) (hd : decodeWord w = .error e) :
    step s = .next (State.error { s with schedule := ts, commands := ws } e) := by
  rw [step_producer hsch hcmd hidle, hd]

theorem step_scheduler {ts : List Turn} (hsch : s.schedule = .scheduler :: ts) : step s = exec .tick { s with schedule := ts } := by
  simp [step, State.fetch, hsch, State.turn, State.present, decode]

/-- A placed input is what the next step takes; a word finds its port open. -/
theorem step_placeInput {p : PortInput} {i : Instr} (hd : decode p = .ok i) :
    step (s.placeInput p) = exec i (if i = .tick then s else { s with cmdState := .idle }) := by
  cases p with
  | word w =>
    rw [if_neg (decode_word_ne_tick hd)]
    exact step_producer_of_decode rfl rfl rfl hd
  | strobe =>
    cases hd
    exact step_scheduler rfl

theorem decodeTableWord_eq_some {nbits w : Nat} {i : Instr} (h : decodeTableWord nbits w = some i) :
    ∃ p, portInputOfRow nbits w = some p ∧ decode p = .ok i := by
  unfold decodeTableWord at h
  split at h
  · cases h
  · rename_i p hp
    split at h
    · cases h
      exact ⟨p, hp, ‹_›⟩
    · cases h

/-- Settles O6: the producer's turn, the scheduler's turn, and a placed input. -/
theorem stepRunsTheDecodedInstruction : Obligations.StepRunsTheDecodedInstruction := by
  refine ⟨fun _ _ _ _ _ => step_producer_of_decode, fun _ _ => step_scheduler, fun s nbits w i h => ?_⟩
  obtain ⟨p, hp, hd⟩ := decodeTableWord_eq_some h
  rw [State.withFetchWord, hp]
  exact step_placeInput hd

end Sys2Proof.Machine
end

section
/-! SUPPORT. The command error of a word: the decoder's or, for an illegal operand, the instruction's own; it is the first check of R99
that the word fails. -/

namespace Sys2Proof.Machine

/-- The error an instruction's operand check finds under the record `c` (R99 checks 3 to 5), none for legal operands. -/
def operandError (c : Cfgp) : Instr → Option ErrCode
  | .wrb off _ | .rdb off => if c.fbLen ≤ off.toNat then some .offsetRange else none
  | .getcfg sel => if 9 ≤ sel.toNat then some .reservedSelector else none
  | .setord imm | .setlay imm | .setinv imm | .setilc imm | .setgry imm => if 1 < imm.toNat then some .illegalValue else none
  | .nop | .swap | .swapc | .wsync | .setbrt _ | .setdrk _ | .setivl _ | .tick => none

theorem operandError_eq_none_iff {c : Cfgp} {i : Instr} : operandError c i = none ↔ i.WellFormed c := by
  cases i <;> simp [operandError, Instr.WellFormed, Nat.lt_succ_iff]

theorem exec_of_operandError {s : State} (hidle : s.cmdState = .idle) {i : Instr} {e : ErrCode}
    (h : operandError s.cfgp.toCfgp i = some e) : exec i s = .next (s.error e) := by
  cases i <;> simp only [operandError, Option.ite_none_right_eq_some, reduceCtorEq] at h <;> obtain ⟨hillegal, ⟨⟩⟩ := h
  case wrb off data => exact execWrb_of_illegal hidle data hillegal
  case rdb off => exact execRdb_of_illegal hidle hillegal
  case getcfg sel => exact execGetcfg_of_reserved hidle hillegal
  all_goals exact setBit_of_illegal hidle hillegal _

/-- The error that a decoded or rejected word takes under the record `c`, none for a legal one. -/
def errorOf (c : Cfgp) : Except ErrCode Instr → Option ErrCode
  | .error e => some e
  | .ok i => operandError c i

@[simp] theorem errorOf_error (c : Cfgp) (e : ErrCode) : errorOf c (.error e) = some e := rfl
@[simp] theorem errorOf_ok (c : Cfgp) (i : Instr) : errorOf c (.ok i) = operandError c i := rfl

theorem decodeWord_of_reserved {w : Word} (h : 8 ≤ (Word.op w).toNat) : decodeWord w = .error .reservedOpcode := by
  unfold decodeWord
  split
  case h_9 => rfl
  all_goals omega

/-- Checks 4 and 5 of a SETCFG word: selectors 3 to 7 name the 1-bit registers. -/
theorem errorOf_setterOf (c : Cfgp) (sel : BitVec 4) (imm : Half) :
    errorOf c (setterOf sel imm) =
      if 8 ≤ sel.toNat then some .reservedSelector else if 3 ≤ sel.toNat ∧ 1 < imm.toNat then some .illegalValue else none := by
  by_cases hreserved : 8 ≤ sel.toNat
  · rw [setterOf_of_reserved imm hreserved, if_pos hreserved, errorOf_error]
  · unfold setterOf
    generalize sel.toNat = n at hreserved ⊢
    interval_cases n <;> simp [operandError]

/-- The checks of R99 read off the word's number find the error of the decoder and the operand checks: below the reserved opcodes,
opcode by opcode, both sides ask the same questions of the same fields in the same order. -/
theorem firstFailingCheck_toNat (c : Cfgp) (w : Word) :
    firstFailingCheck c w.toNat = (errorOf c (decodeWord w)).map ErrCode.code := by
  by_cases hreserved : 8 ≤ (Word.op w).toNat
  · rw [decodeWord_of_reserved hreserved, firstFailingCheck, ← Word.toNat_op, if_pos hreserved]
    rfl
  · unfold firstFailingCheck decodeWord
    simp only [← Word.toNat_op, ← Word.toNat_restZ, ← Word.toNat_sel, ← Word.toNat_off, ← Word.toNat_data, ← Word.toNat_mbzC,
      ← Word.toNat_imm]
    generalize (Word.op w).toNat = op at hreserved ⊢
    interval_cases op <;>
      simp [decodeZ, decodeWrb, decodeRdb, decodeSetcfg, decodeGetcfg, apply_ite (errorOf c), errorOf_setterOf, operandError,
        apply_ite (Option.map ErrCode.code), ErrCode.code, BitVec.toNat_eq, ite_and, ite_or]

/-- Settles O3: the error found is the decoder's, so the port takes it, or the operand check's, so the instruction takes it; with none
found the word decodes to a legal instruction. -/
theorem wordIsClassifiedByTheFirstFailingCheck : Obligations.WordIsClassifiedByTheFirstFailingCheck := by
  intro s w ws ts hsch hcmd hidle
  rw [firstFailingCheck_toNat]
  cases hd : decodeWord w with
  | error e =>
    refine ⟨fun c hc => ?_, nofun⟩
    obtain rfl := Option.some.inj hc
    exact step_producer_of_reject hsch hcmd hidle hd
  | ok i =>
    have hstep := step_producer_of_decode hsch hcmd hidle hd
    refine ⟨fun c hc => ?_, fun hnone => ⟨i, hd, operandError_eq_none_iff.1 (Option.map_eq_none_iff.1 hnone), hstep⟩⟩
    obtain ⟨e, he, rfl⟩ := Option.map_eq_some_iff.1 hc
    exact hstep.trans (exec_of_operandError (s := { s with schedule := ts, commands := ws }) hidle he)

end Sys2Proof.Machine
end

section
/-! SUPPORT. A row of WRB commands of one byte, taken in producer turns: what it writes and what it keeps (R103, R232). -/

namespace Sys2Proof.Machine

/-! ## The byte written at each of some offsets -/

/-- The byte `v` written at each of the offsets in turn. -/
def writeBytes (s : State) (b : Bool) (v : Byte) (offs : List Nat) : State := offs.foldl (fun t off => t.bufWrite b off v) s

theorem writeBytes_cons (s : State) (b : Bool) (v : Byte) (off : Nat) (offs : List Nat) :
    writeBytes s b v (off :: offs) = writeBytes (s.bufWrite b off v) b v offs := rfl

theorem bufRead_writeBytes (s : State) (b c : Bool) (v : Byte) (offs : List Nat) (o : Nat) :
    (writeBytes s b v offs).bufRead c o = if b = c ∧ o ∈ offs then v else s.bufRead c o := by
  induction offs generalizing s with
  | nil => simp [writeBytes]
  | cons off offs ih =>
    rw [writeBytes_cons, ih, State.bufRead_bufWrite]
    by_cases hb : b = c <;> by_cases ho : o ∈ offs <;> simp [hb, ho, @eq_comm _ off]

theorem writeBytes_eq (s : State) (b : Bool) (v : Byte) (offs : List Nat) :
    writeBytes s b v offs = { s with buf0 := (writeBytes s b v offs).buf0, buf1 := (writeBytes s b v offs).buf1 } := by
  induction offs generalizing s with
  | nil => rfl
  | cons off offs ih => exact (ih (s.bufWrite b off v)).trans (by cases b <;> rfl)

/-! ## A row of WRB words at an open port -/

/-- The state with the producer's words and the schedule replaced. -/
def State.withInputs (s : State) (ws : List Word) (ts : List Turn) : State := { s with commands := ws, schedule := ts }

variable {s : State} {v : Byte} {ws : List Word} {ts : List Turn}

theorem execWrb_of_legal (hidle : s.cmdState = .idle) {off : BitVec 16} (data : Byte) (h : off.toNat < s.cfgp.fbLen) :
    execWrb off data s = .next (s.bufWrite (!s.frontSel) off.toNat data) := by
  simp [execWrb, hidle, State.offsetLegal, State.effAddr, h]

theorem step_wrb_word (hidle : s.cmdState = .idle) {off : Nat} (hoff : off < s.cfgp.fbLen) :
    step (s.withInputs (formatM 1#4 (BitVec.ofNat 16 off) v :: ws) (.producer :: ts)) =
      .next ((s.bufWrite (!s.frontSel) off v).withInputs ws ts) := by
  have hword : (BitVec.ofNat 16 off).toNat = off := toNat_ofNat_offset hoff
  have hcomm : State.bufWrite (s.withInputs ws ts) (!s.frontSel) off v = (s.bufWrite (!s.frontSel) off v).withInputs ws ts := by
    cases s.frontSel <;> rfl
  have hexec := execWrb_of_legal (s := s.withInputs ws ts) hidle v (hword.trans_lt hoff)
  rw [hword] at hexec
  calc step (s.withInputs (formatM 1#4 (BitVec.ofNat 16 off) v :: ws) (.producer :: ts))
      = execWrb (BitVec.ofNat 16 off) v (s.withInputs ws ts) :=
        step_producer_of_decode (s := s.withInputs _ _) rfl rfl hidle (decodeWord_formatM_wrb _ v)
    _ = .next (State.bufWrite (s.withInputs ws ts) (!s.frontSel) off v) := hexec
    _ = .next ((s.bufWrite (!s.frontSel) off v).withInputs ws ts) := by rw [hcomm]

/-- Each word writes at its offset and leaves the port open for the next. -/
theorem run_wrb_words (hidle : s.cmdState = .idle) {offs : List Nat} (hoffs : ∀ off ∈ offs, off < s.cfgp.fbLen) :
    Host.Core.run Sys2Proof.core offs.length
        (s.withInputs ((offs.map fun off => formatM 1#4 (BitVec.ofNat 16 off) v) ++ ws)
          (List.replicate offs.length .producer ++ ts)) =
      .next ((writeBytes s (!s.frontSel) v offs).withInputs ws ts) := by
  induction offs generalizing s with
  | nil => rfl
  | cons off offs ih =>
    obtain ⟨hoff, hrest⟩ := List.forall_mem_cons.1 hoffs
    have hrun := ih (s := s.bufWrite (!s.frontSel) off v) (by simpa using hidle) (by simpa using hrest)
    rw [State.bufWrite_frontSel] at hrun
    exact (run_succ _ (step_wrb_word hidle hoff)).trans hrun

/-- Settles O14: FILL's offsets are all offsets of the buffer, so every byte of the back buffer and no other is written. -/
theorem fillWritesTheWholeBackBuffer : Obligations.FillWritesTheWholeBackBuffer := by
  intro s v ws ts hidle hcmd hsch
  have hrun := run_wrb_words (v := v) (ws := ws) (ts := ts) hidle (offs := List.range s.cfgp.fbLen) fun _ => List.mem_range.1
  have hs : s = s.withInputs (pseudoFill s.cfgp.toCfgp v ++ ws) (List.replicate s.cfgp.fbLen .producer ++ ts) := by
    rw [← hcmd, ← hsch]
    rfl
  rw [List.length_range] at hrun
  refine ⟨_, (congrArg _ hs).trans hrun, fun off hoff => ?back, fun off => ?front, ?registers⟩
  case back => exact (bufRead_writeBytes ..).trans (if_pos ⟨rfl, List.mem_range.2 hoff⟩)
  case front => exact (bufRead_writeBytes ..).trans (if_neg fun h => Bool.not_ne_self _ h.1)
  case registers => exact congrArg (State.withInputs · ws ts) (writeBytes_eq ..)

end Sys2Proof.Machine
end

section
/-! SUPPORT. The two parts of COMPOSE: the data part is the row read through the Byte Selector Map, the address part at most one byte of
the row-address table (R120 to R123, R127, R128). -/

namespace Sys2Proof.Machine

/-- The row-address table has an entry for each row, so `ramAt` never shows its default (R7). -/
theorem ram_getElem? (c : WfCfgp) (o : BitOrder) (a : Row) : (c.ram o)[a.val]? = some (c.ramAt o a) := by
  obtain ⟨-, -, -, -, -, -, hmsb, hlsb⟩ := c.wf
  have hlen : (c.ram o).length = nRows := by
    cases o
    · exact hmsb
    · exact hlsb
  have ha : a.val < (c.ram o).length := by rw [hlen]; exact a.isLt
  simp [Cfgp.ramAt, List.getElem?_eq_getElem ha]

section
variable (s : State) (b : Bool) (p : Row) (l : Layout) (m : Byte) (o : BitOrder) (a : Row)

@[simp] theorem compose_take : (compose s b p l m o a).take s.cfgp.rowBytes = composeData s b p l m :=
  List.take_left' (composeData_length s b p l m)

@[simp] theorem compose_drop : (compose s b p l m o a).drop s.cfgp.rowBytes = composeAddr s o a :=
  List.drop_left' (composeData_length s b p l m)

/-- The data part with the row written as the `ROW_BYTES` bytes that start at `p × ROW_BYTES` (R61). -/
theorem composeData_eq_map : composeData s b p l m =
    (s.cfgp.bsm l).map fun j => s.bufRead b (p.val * s.cfgp.rowBytes + j) ^^^ m := by
  simp only [composeData, composeOffset, rowStride_eq, Nat.add_comm]

theorem composeData_xor (n : Byte) : composeData s b p l (m ^^^ n) = (composeData s b p l m).map (· ^^^ n) := by
  simp [composeData, BitVec.xor_assoc]

end

section
variable {s : State} {l : Layout} {i j : Nat}

theorem lt_rowBytes_of_bsm_getElem? {c : WfCfgp} (h : (c.bsm l)[i]? = some j) : i < c.rowBytes := by
  obtain ⟨hlen, -, -⟩ := bsm_bijectionOn c l
  exact hlen ▸ (List.getElem?_eq_some_iff.1 h).1

theorem bsm_getElem?_of_lt {c : WfCfgp} (h : i < c.rowBytes) : ∃ j, (c.bsm l)[i]? = some j := by
  obtain ⟨hlen, -, -⟩ := bsm_bijectionOn c l
  exact ⟨_, List.getElem?_eq_getElem (hlen.symm ▸ h)⟩

/-- Transmit position `i` carries the byte of the row that the Byte Selector Map names there (R120, R121). -/
theorem compose_getElem?_of_bsm (h : (s.cfgp.bsm l)[i]? = some j) (b : Bool) (p : Row) (m : Byte) (o : BitOrder) (a : Row) :
    (compose s b p l m o a)[i]? = some (s.bufRead b (p.val * s.cfgp.rowBytes + j) ^^^ m) := by
  rw [compose, List.getElem?_append_left (by rw [composeData_length]; exact lt_rowBytes_of_bsm_getElem? h), composeData_eq_map,
    List.getElem?_map, h, Option.map_some]

end

/-- Settles O30: the data bytes by the position's table entry, the address byte as the first one after them. -/
theorem composeGivesTheMappedBytesAndTheAddress : Obligations.ComposeGivesTheMappedBytesAndTheAddress := by
  intro s b p l m o a
  refine ⟨compose_length s b p l m o a, fun i hi => ?data, fun hinline => ?address⟩
  case data =>
    obtain ⟨j, hj⟩ := bsm_getElem?_of_lt (l := l) hi
    refine ⟨j, hj, ?_⟩
    rw [rowStride_eq, Nat.add_comm]
    exact compose_getElem?_of_bsm hj b p m o a
  case address =>
    calc (compose s b p l m o a)[s.cfgp.rowBytes]?
        = ((compose s b p l m o a).drop s.cfgp.rowBytes)[0]? := by rw [List.getElem?_drop, Nat.add_zero]
      _ = some (s.cfgp.ramAt o a) := by simp [composeAddr, hinline]
      _ = (s.cfgp.ram o)[a.val]? := (ram_getElem? s.cfgp o a).symm

/-- Settles O31: the Byte Selector Map is a permutation of the columns, and mapping the bytes over it keeps that. -/
theorem composePermutesTheRow : Obligations.ComposePermutesTheRow := by
  intro s b p l m o a
  rw [compose_take, composeData_eq_map]
  exact (bijectionOn_perm_range (bsm_bijectionOn s.cfgp l)).map _

/-- Settles O32: the position is the only one at which the map names the byte's column, so any other names a column that is zero. -/
theorem composeMovesASingleByteToItsPosition : Obligations.ComposeMovesASingleByteToItsPosition := by
  intro s b p l o a j hj hzero
  obtain ⟨i, hi, huniq⟩ := bsm_existsUnique_position s.cfgp l hj
  refine ⟨i, lt_rowBytes_of_bsm_getElem? hi, hi, ?same, fun k hk hki => ?other⟩
  case same => simpa using compose_getElem?_of_bsm hi b p 0 o a
  case other =>
    obtain ⟨q, hq⟩ := bsm_getElem?_of_lt (l := l) hk
    have hqj : q ≠ j := fun h => hki (huniq k (h ▸ hq))
    simpa [hzero q (bsm_lt hq) hqj] using compose_getElem?_of_bsm hq b p 0 o a

/-- The flip of R122 written as a subtraction. -/
theorem byte_xor_ff_eq_sub (v : Byte) : v ^^^ 0xFF = 255 - v :=
  BitVec.xor_allOnes.trans (BitVec.allOnes_sub_eq_not v).symm

/-- Settles O33: a change of mask is an XOR of each data byte, and the mask does not occur in the address part. -/
theorem composeInversionFlipsTheDataOnly : Obligations.ComposeInversionFlipsTheDataOnly := by
  intro s b p l o a
  simp only [compose_take, compose_drop, and_true]
  have hflip : composeData s b p l 0xFF = (composeData s b p l 0x00).map (· ^^^ 0xFF) := composeData_xor s b p l 0x00 0xFF
  have hback : composeData s b p l 0x00 = (composeData s b p l 0xFF).map (· ^^^ 0xFF) := composeData_xor s b p l 0xFF 0xFF
  exact ⟨by simpa only [byte_xor_ff_eq_sub] using hflip, hback⟩

/-- The data part sees a buffer through the bytes of its row only (R128). -/
theorem composeData_congr_row {s t : State} (hc : t.cfgp = s.cfgp) {b : Bool} {p : Row}
    (hrow : ∀ j, j < s.cfgp.rowBytes →
      t.bufRead b (p.val * s.cfgp.rowBytes + j) = s.bufRead b (p.val * s.cfgp.rowBytes + j)) (l : Layout) (m : Byte) :
    composeData t b p l m = composeData s b p l m := by
  obtain ⟨-, hlt, -⟩ := bsm_bijectionOn s.cfgp l
  rw [composeData_eq_map, composeData_eq_map, hc]
  exact List.map_congr_left fun j hj => by rw [hrow j (hlt j hj)]

/-- Settles O34: each part is a function of its own arguments, and the data part of its row's bytes. -/
theorem composeDependsOnItsRowOnly : Obligations.ComposeDependsOnItsRowOnly := by
  intro s t b b' p p' l l' m m' o o' a a' hc
  refine ⟨?data, ?address, fun hrow => ?row⟩
  case data => rw [compose_take, compose_take]
  case address => rw [compose_drop, compose_drop]
  case row => rw [compose, compose, composeData_congr_row hc hrow, composeAddr, composeAddr, hc]

end Sys2Proof.Machine
end

section
/-! SUPPORT. Every step answers a next state, so what every turn keeps holds all along a run of any length (R155, R252, U6). -/

namespace Sys2Proof.Machine

theorem step_answers (s : State) : ∃ t, step s = .next t := by
  unfold step
  cases s.fetch with
  | run i t => exact ⟨_, exec_eq i t⟩
  | settled t => exact ⟨t, rfl⟩

/-- Settles O8: an instruction's answer is its effect or the state itself, and a step runs an instruction or is already settled. -/
theorem everyStepAnswersANextState : Obligations.EveryStepAnswersANextState :=
  ⟨fun i s => ⟨_, exec_eq i s⟩, step_answers⟩

/-- A run keeps what every turn keeps, and never stops. -/
theorem TurnInvariant.run {P : State → Prop} (hP : TurnInvariant P) {s : State} (hs : P s) (n : Nat) :
    ∃ t, Host.Core.run Sys2Proof.core n s = .next t ∧ P t := by
  induction n generalizing s with
  | zero => exact ⟨s, rfl, hs⟩
  | succ n ih =>
    obtain ⟨t, hst⟩ := step_answers s
    rw [run_succ n hst]
    exact ih (hP.step hs hst)

/-- Settles O53: each kind of turn keeps the invariants, so a run of any length does. -/
theorem everyRunIsSafe : Obligations.EveryRunIsSafe :=
  fun _ hs n => turnInvariant_inv.run hs n

end Sys2Proof.Machine
end

section
/-! SUPPORT. One TICK, register by register: the counters and flags, the pulse width, and the records it emits (R140 to R153). -/

namespace Sys2Proof.Machine

variable {s : State}

theorem exec_tick (s : State) : exec .tick s = .next s.tick := rfl

/-! ## The registers -/

/-- Settles O19: the row wraps after row 17 only, and the phase follows the wrap. -/
theorem tickAdvancesTheRowAndTogglesThePhase : Obligations.TickAdvancesTheRowAndTogglesThePhase := by
  intro s
  refine ⟨s.tick, exec_tick s, ticks_lrow 1 s, fun hlast => ⟨?row, ?phase⟩, fun hother => ?keep⟩
  case row => exact (nextRow_eq_zero_iff s).2 hlast
  case phase => simp [nextPhase_eq, hlast]
  case keep => simp [nextPhase_eq, hother]

/-- Settles O20: the next physical row by the two values of the interlace flag. -/
theorem tickWritesThePhysicalRows : Obligations.TickWritesThePhysicalRows := by
  intro s
  have hprow : s.tick.prow = s.cfgp.physRow s.cfgInterlace s.tick.lrow := rfl
  refine ⟨s.tick, exec_tick s, State.tick_pprev s, fun hil => ?mapped, fun hil => ?plain⟩
  case mapped => rw [hprow, hil, physRow_true, imap_getElem?]
  case plain => rw [hprow, hil, physRow_false]

/-- Settles O21: the flag a tick leaves is decided by the row it serviced. -/
theorem tickRaisesSyncAfterTheLastRowOnly : Obligations.TickRaisesSyncAfterTheLastRowOnly := by
  intro s
  refine ⟨s.tick, exec_tick s, fun hlast => ?up, fun hother => ?down⟩
  case up => simp [nextSync_eq, hlast]
  case down => simp [nextSync_eq, hother]

theorem nextPulse_of_first_row (h : s.lrow = 0) : s.nextPulse = if s.phase then s.cfgDark else s.cfgBright := if_pos h

theorem nextPulse_of_other_row (h : s.lrow ≠ 0) : s.nextPulse = s.apulse := if_neg h

/-- Settles O22: the first row's tick by the two phases, and every other row's. -/
theorem tickRecomputesThePulseOnTheFirstRowOnly : Obligations.TickRecomputesThePulseOnTheFirstRowOnly := by
  intro s
  refine ⟨s.tick, exec_tick s, fun hrow hphase => ?bright, fun hrow hphase => ?dark, nextPulse_of_other_row⟩
  case bright => simp [nextPulse_of_first_row hrow, hphase]
  case dark => simp [nextPulse_of_first_row hrow, hphase]

/-- Settles O23: the tick as one record update names every register it writes, and no buffer is among them. -/
theorem tickFrame : Obligations.TickFrame :=
  fun s => ⟨s.tick, _, exec_tick s, State.tick_trace s, State.bufRead_tick s, tick_eq s⟩

/-! ## The records -/

theorem sourceBuffer_eq (s : State) :
    s.sourceBuffer = if s.cfgGrey = true ∧ s.phase = true then !s.frontSel else s.frontSel := by
  simp [State.sourceBuffer]

theorem rowaddrRecords_of_inline (h : s.cfgp.addrInline = true) : s.rowaddrRecords = [] := if_pos h

theorem rowaddrRecords_of_outOfBand (h : s.cfgp.addrInline = false) :
    s.rowaddrRecords = [.rowaddr (s.cfgp.ramAt s.cfgBitorder s.addrRow)] := if_neg (by simp [h])

theorem tickRecords_of_shiftThenLatch (h : s.cfgp.order = .shiftThenLatch) (d : Half) :
    s.tickRecords d = .beginTx :: .shift s.composedRow :: s.rowaddrRecords ++ [.latch, .illum d] := by
  simp [State.tickRecords, h]

theorem tickRecords_of_latchThenShift (h : s.cfgp.order = .latchThenShift) (d : Half) :
    s.tickRecords d = .latch :: s.rowaddrRecords ++ [.beginTx, .shift s.composedRow, .illum d] := by
  simp [State.tickRecords, h]

/-- Settles O24: the tick's own source buffer, mask, address row and address record, and its records by the two orders. -/
theorem tickEmitsItsRecordsInOrder : Obligations.TickEmitsItsRecordsInOrder := by
  intro s
  refine ⟨s.tick, s.sourceBuffer, s.invertMask, s.addrRow, s.rowaddrRecords, exec_tick s, sourceBuffer_eq s, rfl, rfl,
    rowaddrRecords_of_inline, fun hout => ?address, fun horder => ?shiftThenLatch, fun horder => ?latchThenShift⟩
  case address => exact ⟨_, ram_getElem? s.cfgp s.cfgBitorder s.addrRow, rowaddrRecords_of_outOfBand hout⟩
  case shiftThenLatch => exact congrArg (s.trace ++ ·) (tickRecords_of_shiftThenLatch horder _)
  case latchThenShift => exact congrArg (s.trace ++ ·) (tickRecords_of_latchThenShift horder _)

theorem map_code_rowaddrRecords (s : State) : s.rowaddrRecords.map TxRecord.code = if s.cfgp.addrInline then [] else [4] := by
  unfold State.rowaddrRecords
  split_ifs <;> rfl

/-- Whatever the order, a tick's records have the codes 0 to 3 once each, and 4 when the address goes out of band (R149). -/
theorem map_code_tickRecords_perm (s : State) (d : Half) :
    ((s.tickRecords d).map TxRecord.code).Perm ([0, 1, 2, 3] ++ if s.cfgp.addrInline then [] else [4]) := by
  have haddr := map_code_rowaddrRecords s
  cases horder : s.cfgp.order with
  | shiftThenLatch =>
    simp only [tickRecords_of_shiftThenLatch horder, List.map_append, List.map_cons, List.map_nil, haddr, TxRecord.code]
    split_ifs <;> decide
  | latchThenShift =>
    simp only [tickRecords_of_latchThenShift horder, List.map_append, List.map_cons, List.map_nil, haddr, TxRecord.code]
    split_ifs <;> decide

theorem beginTx_before_shift (s : State) (d : Half) :
    ∃ before seq after, s.tickRecords d = before ++ .beginTx :: .shift seq :: after := by
  cases horder : s.cfgp.order with
  | shiftThenLatch => exact ⟨[], _, _, tickRecords_of_shiftThenLatch horder d⟩
  | latchThenShift => exact ⟨_, _, _, tickRecords_of_latchThenShift horder d⟩

/-- Settles O25: the counts and the length are those of the codes in ascending order. -/
theorem tickEmitsEachRecordKindOnce : Obligations.TickEmitsEachRecordKindOnce := by
  intro s
  have hperm := map_code_tickRecords_perm s s.nextPulse
  refine ⟨s.tick, _, exec_tick s, State.tick_trace s, ?beginTx, ?shift, ?latch, ?illum, ?rowaddr, ?length,
    beginTx_before_shift s _⟩
  case length =>
    rw [← List.length_map TxRecord.code, hperm.length_eq]
    split_ifs <;> rfl
  all_goals
    rw [hperm.count_eq]
    split_ifs <;> rfl

end Sys2Proof.Machine
end

section
/-! SUPPORT. A row of ticks: the phase, the sync flag and the physical row after any number of them, and so what the 18 ticks of a frame
service and read (R154, R156, R157). -/

namespace Sys2Proof.Machine

variable {s : State}

/-! ## The registers after a number of ticks -/

theorem ticks_lrow_eq_last_iff (n : Nat) (s : State) : (ticks n s).lrow = 17 ↔ (s.lrow.val + n) % 18 = 17 := by
  rw [Fin.ext_iff, ticks_lrow]
  rfl

theorem ticks_succ_sync (n : Nat) (s : State) : (ticks (n + 1) s).sync = decide ((s.lrow.val + n) % 18 = 17) := by
  rw [ticks_add n 1, ticks_succ, ticks_zero, State.tick_sync, nextSync_eq, decide_eq_decide, ticks_lrow_eq_last_iff]

/-- The phase has been complemented once for each frame the ticks have ended (R151). -/
theorem ticks_phase (n : Nat) (s : State) : (ticks n s).phase = (s.phase ^^ ((s.lrow.val + n) / 18).bodd) := by
  induction n with
  | zero => simp [Nat.div_eq_of_lt s.lrow.isLt]
  | succ n ih =>
    have htick : (ticks (n + 1) s).phase = (s.phase ^^ ((s.lrow.val + n) / 18).bodd ^^ decide ((ticks n s).lrow = 17)) := by
      rw [ticks_add n 1, ticks_succ, ticks_zero, State.tick_phase, nextPhase_eq, ih]
    by_cases hlast : (s.lrow.val + n) % 18 = 17
    · have hdiv : (s.lrow.val + (n + 1)) / 18 = (s.lrow.val + n) / 18 + 1 := by omega
      simp [htick, ticks_lrow_eq_last_iff, hlast, hdiv]
    · have hdiv : (s.lrow.val + (n + 1)) / 18 = (s.lrow.val + n) / 18 := by omega
      simp [htick, ticks_lrow_eq_last_iff, hlast, hdiv]

/-- A physical row written under the present interlace flag stays so along a row of ticks (R152). -/
theorem ticks_prow (h : s.prow = s.cfgp.physRow s.cfgInterlace s.lrow) (n : Nat) :
    (ticks n s).prow = s.cfgp.physRow s.cfgInterlace (ticks n s).lrow := by
  cases n with
  | zero => exact h
  | succ n => exact ticks_prow_succ n s

theorem ticks_eighteen_lrow (s : State) : (ticks 18 s).lrow = s.lrow := by
  apply Fin.ext
  rw [ticks_lrow]
  omega

theorem ticks_eighteen_phase (s : State) : (ticks 18 s).phase = !s.phase := by
  have hframe : (s.lrow.val + 18) / 18 = 1 := by omega
  rw [ticks_phase, hframe, Nat.bodd_one, Bool.xor_true]

/-- From whichever row 18 ticks start, row 17 comes up once. -/
theorem count_last_row : ∀ r : Row, ((List.range 18).map fun n => decide ((r.val + n) % 18 = 17)).count true = 1 := by
  decide

/-- Settles O26: the registers after 18 ticks; the phase after 36 is complemented twice. -/
theorem eighteenTicksCloseTheCycle : Obligations.EighteenTicksCloseTheCycle := by
  intro s hprow
  refine ⟨ticks_eighteen_lrow s, ?prow, ticks_eighteen_phase s, ?sync, ?phase⟩
  case prow => rw [ticks_prow hprow, ticks_eighteen_lrow, hprow]
  case sync =>
    simp only [ticks_succ_sync]
    exact count_last_row s.lrow
  case phase => rw [ticks_add 18 18, ticks_eighteen_phase, ticks_eighteen_phase, Bool.not_not]

/-! ## The physical rows of a frame -/

theorem servicedRows_eq_map (n : Nat) (s : State) : servicedRows n s = (List.range n).map fun k => (ticks k s).prow := by
  induction n generalizing s with
  | zero => rfl
  | succ n ih =>
    rw [servicedRows, ih, List.range_succ_eq_map, List.map_cons, List.map_map]
    rfl

/-- A frame services the images of the logical rows in their order (R26, R156). -/
theorem servicedRows_frame (hrow : s.lrow = 0) (hprow : s.prow = s.cfgp.physRow s.cfgInterlace s.lrow) :
    servicedRows 18 s = (List.finRange 18).map (s.cfgp.physRow s.cfgInterlace) := by
  have hlrow (k : Row) : (ticks k.val s).lrow = k := by
    apply Fin.ext
    simp [ticks_lrow, hrow, Nat.mod_eq_of_lt k.isLt]
  rw [servicedRows_eq_map, ← List.map_coe_finRange_eq_range, List.map_map]
  refine List.map_congr_left fun k _ => ?_
  rw [Function.comp_apply, ticks_prow hprow, hlrow]

theorem map_physRow_false (c : Cfgp) : (List.finRange 18).map (c.physRow false) = List.finRange 18 :=
  List.map_id'' (physRow_false c) _

theorem map_physRow_true (c : WfCfgp) : (List.finRange 18).map (c.physRow true) = c.imap := by
  have hlen : c.imap.length = 18 := by simpa using (imap_bijectionOn c).1
  refine List.ext_getElem (by simp [hlen]) fun i hi _ => ?_
  have hi' : i < 18 := by simpa using hi
  simpa [physRow_true] using (List.getElem?_eq_some_iff.1 (imap_getElem? c ⟨i, hi'⟩)).2.symm

theorem count_map_physRow (c : WfCfgp) (il : Bool) (r : Row) : ((List.finRange 18).map (c.physRow il)).count r = 1 := by
  obtain ⟨k, rfl⟩ := Finite.surjective_of_injective (physRow_injective c il) r
  rw [List.count_map_of_injective _ _ (physRow_injective c il)]
  exact List.count_eq_one_of_mem (List.nodup_finRange 18) (List.mem_finRange k)

/-- Settles O27: a frame services the image of the logical rows under a bijection, the identity or the Interlace Map. -/
theorem frameServicesEveryPhysicalRowOnce : Obligations.FrameServicesEveryPhysicalRowOnce := by
  intro s hrow hprow
  have hframe := servicedRows_frame hrow (hrow ▸ hprow)
  refine ⟨fun hil => ?plain, fun hil => ?mapped, fun r => ?once⟩
  case plain => rw [hframe, hil, map_physRow_false]
  case mapped => rw [hframe, hil, map_physRow_true]
  case once => rw [hframe, count_map_physRow]

/-! ## The source buffers -/

theorem servicedSources_add (m n : Nat) (s : State) :
    servicedSources (m + n) s = servicedSources m s ++ servicedSources n (ticks m s) := by
  induction m generalizing s with
  | zero => simp [servicedSources]
  | succ m ih => rw [Nat.succ_add, servicedSources, servicedSources, ih, ticks_succ, List.cons_append]

theorem servicedSources_eq_replicate {n : Nat} {b : Bool} (h : ∀ k < n, (ticks k s).sourceBuffer = b) :
    servicedSources n s = List.replicate n b := by
  induction n generalizing s with
  | zero => rfl
  | succ n ih =>
    rw [servicedSources, List.replicate_succ, ih fun k hk => h (k + 1) (by omega)]
    exact congrArg (· :: _) (h 0 (by omega))

theorem sourceBuffer_of_grey_on (h : s.cfgGrey = true) : s.sourceBuffer = (s.frontSel ^^ s.phase) := by
  cases hphase : s.phase <;> simp [State.sourceBuffer, h, hphase]

/-- The phase stays as it is during a frame, so with greyscale on its ticks all read one buffer. -/
theorem servicedSources_frame (hgrey : s.cfgGrey = true) (hrow : s.lrow = 0) :
    servicedSources 18 s = List.replicate 18 (s.frontSel ^^ s.phase) := by
  refine servicedSources_eq_replicate fun k hk => ?_
  obtain ⟨-, hfront, -, hgrey', -, -⟩ := ticks_frame k s
  have hphase : (ticks k s).phase = s.phase := by simp [ticks_phase, hrow, Nat.div_eq_of_lt hk]
  rw [sourceBuffer_of_grey_on (hgrey'.trans hgrey), hfront, hphase]

/-- Settles O28: two frames, the second with the phase complemented; with greyscale off the phase plays no part. -/
theorem greyscaleAlternatesTheSourcePerFrame : Obligations.GreyscaleAlternatesTheSourcePerFrame := by
  intro s
  refine ⟨fun hgrey hrow => ?on, fun hgrey n => servicedSources_eq_replicate fun k _ => ?off⟩
  case on =>
    obtain ⟨-, hfront, -, hgrey', -, -⟩ := ticks_frame 18 s
    rw [servicedSources_add 18 18, servicedSources_frame hgrey hrow,
      servicedSources_frame (hgrey'.trans hgrey) ((ticks_eighteen_lrow s).trans hrow), hfront, ticks_eighteen_phase,
      Bool.xor_not]
  case off =>
    obtain ⟨-, hfront, -, hgrey', -, -⟩ := ticks_frame k s
    rw [sourceBuffer_of_grey_off (hgrey'.trans hgrey), hfront]

end Sys2Proof.Machine
end

section
/-! SUPPORT. The turns of the arbitrator and the copy engine, case by case, and the requests they serve (R175 to R181). -/

namespace Sys2Proof.Machine

variable {s : State} {ts : List Turn}

/-! ## The requests -/

theorem exec_swap_of_idle (hidle : s.cmdState = .idle) : exec .swap s = .next { s with cmdState := .waitSwap } :=
  accept_of_idle hidle _

theorem exec_swapc_of_idle (hidle : s.cmdState = .idle) : exec .swapc s = .next { s with cmdState := .waitSwapc } :=
  accept_of_idle hidle _

theorem exec_wsync_of_idle (hidle : s.cmdState = .idle) : exec .wsync s = .next { s with cmdState := .waitSync } :=
  accept_of_idle hidle _

/-- Settles O36: an open port accepts each of the three commands, whose effect is the request. -/
theorem syncCommandsRecordTheirRequest : Obligations.SyncCommandsRecordTheirRequest :=
  fun _ hidle => ⟨exec_swap_of_idle hidle, exec_swapc_of_idle hidle, exec_wsync_of_idle hidle⟩

/-! ## The arbitrator -/

theorem step_arbitrator (hsch : s.schedule = .arbitrator :: ts) : step s = .next (s.withSchedule ts).arbStep := by
  simp [step, State.fetch, hsch, State.turn, State.withSchedule]

theorem arbStep_of_disabled (h : s.sync = false ∨ s.cmdState = .idle ∨ s.cmdState = .copy) : s.arbStep = s := by
  rcases h with h | h | h <;> simp [State.arbStep, h]

section
variable (hsch : s.schedule = .arbitrator :: ts)
include hsch

theorem step_arbSwap (hsync : s.sync = true) (hcmd : s.cmdState = .waitSwap) :
    step s = .next { s with schedule := ts, frontSel := !s.frontSel, cmdState := .idle } := by
  simp [step_arbitrator hsch, State.withSchedule, State.arbStep, hsync, hcmd, State.arbSwap]

theorem step_arbSwapc (hsync : s.sync = true) (hcmd : s.cmdState = .waitSwapc) :
    step s = .next { s with schedule := ts, frontSel := !s.frontSel, copyIdx := 0, cmdState := .copy } := by
  simp [step_arbitrator hsch, State.withSchedule, State.arbStep, hsync, hcmd, State.arbSwapc]

theorem step_arbSync (hsync : s.sync = true) (hcmd : s.cmdState = .waitSync) :
    step s = .next { s with schedule := ts, cmdState := .idle } := by
  simp [step_arbitrator hsch, State.withSchedule, State.arbStep, hsync, hcmd, State.arbSync]

theorem step_arbitrator_of_disabled (h : s.sync = false ∨ s.cmdState = .idle ∨ s.cmdState = .copy) :
    step s = .next (s.withSchedule ts) := by
  rw [step_arbitrator hsch, arbStep_of_disabled (s := s.withSchedule ts) h]

end

/-- Settles O37: the arbitrator's turn by its three enabled steps and the passing turn. -/
theorem arbitratorActsInTheSyncWindowOnly : Obligations.ArbitratorActsInTheSyncWindowOnly :=
  fun _ _ hsch => ⟨step_arbSwap hsch, step_arbSwapc hsch, step_arbSync hsch, step_arbitrator_of_disabled hsch⟩

/-! ## The copy engine -/

theorem step_copyEngine (hsch : s.schedule = .copyEngine :: ts) : step s = .next (s.withSchedule ts).copyStep := by
  simp [step, State.fetch, hsch, State.turn, State.withSchedule]

theorem copyStep_of_not_copy (h : s.cmdState ≠ .copy) : s.copyStep = s := by
  rcases copyStep_cases s with ⟨-, e⟩ | ⟨hcopy, -⟩ | ⟨hcopy, -⟩
  · exact e
  all_goals exact absurd hcopy h

theorem copyStep_of_end (hcopy : s.cmdState = .copy) (hend : s.cfgp.fbLen ≤ s.copyIdx.toNat) :
    s.copyStep = { s with cmdState := .idle } := by
  rcases copyStep_cases s with ⟨hno, -⟩ | ⟨-, hlt, -⟩ | ⟨-, -, e⟩
  · exact absurd hcopy hno
  · exact absurd hend (Nat.not_le.2 hlt)
  · exact e

/-- While a copy has bytes to move, the copy index takes the next number: its 17 bits hold more than FB_LEN (R34, R7). -/
theorem copyIdx_succ_toNat (h : s.copyIdx.toNat < s.cfgp.fbLen) : (s.copyIdx + 1).toNat = s.copyIdx.toNat + 1 := by
  have hlen := fbLen_le s.cfgp
  exact BitVec.toNat_add_of_lt (Nat.lt_of_le_of_lt (Nat.le_trans h hlen) (by decide))

section
variable (hcopy : s.cmdState = .copy) (hlt : s.copyIdx.toNat < s.cfgp.fbLen)
include hcopy hlt

theorem copyStep_of_byte :
    s.copyStep = { s.bufWrite (!s.frontSel) s.copyIdx.toNat (s.bufRead s.frontSel s.copyIdx.toNat) with
      copyIdx := s.copyIdx + 1 } := by
  rcases copyStep_cases s with ⟨hno, -⟩ | ⟨-, -, e⟩ | ⟨-, hend, -⟩
  · exact absurd hcopy hno
  · exact e
  · exact absurd hend (Nat.not_le.2 hlt)

theorem copyStep_byte_copyIdx : s.copyStep.copyIdx.toNat = s.copyIdx.toNat + 1 := by
  rw [copyStep_of_byte hcopy hlt]
  exact copyIdx_succ_toNat hlt

theorem copyStep_byte_bufRead (b : Bool) (o : Nat) :
    s.copyStep.bufRead b o =
      if (b, o) = (!s.frontSel, s.copyIdx.toNat) then s.bufRead s.frontSel s.copyIdx.toNat else s.bufRead b o := by
  rw [copyStep_of_byte hcopy hlt]
  refine (State.bufRead_bufWrite s ..).trans ?_
  simp only [Prod.mk.injEq, @eq_comm _ b, @eq_comm _ o]

theorem copyStep_byte_frame :
    s.copyStep = { s with copyIdx := s.copyStep.copyIdx, buf0 := s.copyStep.buf0, buf1 := s.copyStep.buf1 } := by
  rw [copyStep_of_byte hcopy hlt]
  exact congrArg (fun t : State => { t with copyIdx := s.copyIdx + 1 }) (bufWrite_eq s ..)

end

/-- Settles O38: the copy engine's turn by the byte step, the final step and the passing turn. -/
theorem copyEngineMovesOneByteOrEndsTheCopy : Obligations.CopyEngineMovesOneByteOrEndsTheCopy := by
  intro s ts hsch
  refine ⟨fun hcopy hlt => ⟨_, step_copyEngine hsch, ?index, fun b o => ?bytes, ?frame⟩, fun hcopy hend => ?ends,
    fun hno => ?pass⟩
  case index => exact copyStep_byte_copyIdx (s := s.withSchedule ts) hcopy hlt
  case bytes => exact copyStep_byte_bufRead (s := s.withSchedule ts) hcopy hlt b o
  case frame => exact copyStep_byte_frame (s := s.withSchedule ts) hcopy hlt
  case ends => exact (step_copyEngine hsch).trans (congrArg _ (copyStep_of_end (s := s.withSchedule ts) hcopy hend))
  case pass => exact (step_copyEngine hsch).trans (congrArg _ (copyStep_of_not_copy (s := s.withSchedule ts) hno))

end Sys2Proof.Machine
end

section
/-! SUPPORT. Runs of one agent's turns, and the copy from its first byte to its last step (R179). -/

namespace Sys2Proof.Machine

/-! ## A row of turns of one agent -/

theorem withSchedule_eq_self {s : State} {ts : List Turn} (h : s.schedule = ts) : s.withSchedule ts = s := by
  rw [← h]
  rfl

/-- `f` is what a turn of the agent `a` does to the block, whatever is scheduled after it. -/
def TurnDoes (a : Turn) (f : State → State) : Prop :=
  ∀ (s : State) (ts : List Turn), step (s.withSchedule (a :: ts)) = .next ((f s).withSchedule ts)

theorem tick_withSchedule (s : State) (ts : List Turn) : (s.withSchedule ts).tick = s.tick.withSchedule ts := rfl

theorem turnDoes_tick : TurnDoes .scheduler State.tick := fun s ts => by
  rw [step_scheduler (s := s.withSchedule (.scheduler :: ts)) rfl, exec_tick, ← tick_withSchedule]
  rfl

theorem bufWrite_withSchedule (s : State) (ts : List Turn) (b : Bool) (off : Nat) (v : Byte) :
    (s.withSchedule ts).bufWrite b off v = (s.bufWrite b off v).withSchedule ts := by
  cases b <;> rfl

theorem copyStep_withSchedule (s : State) (ts : List Turn) : (s.withSchedule ts).copyStep = s.copyStep.withSchedule ts := by
  rcases copyStep_cases s with ⟨hno, e⟩ | ⟨hcopy, hlt, e⟩ | ⟨hcopy, hend, e⟩ <;> rw [e]
  · exact copyStep_of_not_copy (s := s.withSchedule ts) hno
  · refine (copyStep_of_byte (s := s.withSchedule ts) hcopy hlt).trans ?_
    rw [bufWrite_withSchedule]
    rfl
  · exact copyStep_of_end (s := s.withSchedule ts) hcopy hend

theorem turnDoes_copyStep : TurnDoes .copyEngine State.copyStep := fun s ts =>
  (step_copyEngine rfl).trans (congrArg _ (copyStep_withSchedule s ts))

theorem TurnDoes.run_replicate {a : Turn} {f : State → State} (h : TurnDoes a f) (n : Nat) (s : State) (ts : List Turn) :
    Host.Core.run Sys2Proof.core n (s.withSchedule (List.replicate n a ++ ts)) = .next ((f^[n] s).withSchedule ts) := by
  induction n generalizing s with
  | zero => rfl
  | succ n ih => exact (run_succ n (h s _)).trans (ih (f s))

/-! ## The copy -/

variable {s t : State} {n : Nat}

/-- In `t` the copy that began in `s` is running and has moved `n` bytes. -/
structure CopiedUpTo (s : State) (n : Nat) (t : State) : Prop where
  cmdState : t.cmdState = .copy
  cfgp : t.cfgp = s.cfgp
  frontSel : t.frontSel = s.frontSel
  copyIdx : t.copyIdx.toNat = n
  front : ∀ off, t.bufRead s.frontSel off = s.bufRead s.frontSel off
  back : ∀ off, off < n → t.bufRead (!s.frontSel) off = s.bufRead s.frontSel off

namespace CopiedUpTo

theorem start (hcopy : s.cmdState = .copy) (hidx : s.copyIdx = 0) : CopiedUpTo s 0 s where
  cmdState := hcopy
  cfgp := rfl
  frontSel := rfl
  copyIdx := by simp [hidx]
  front _ := rfl
  back _ h := absurd h (Nat.not_lt_zero _)

theorem copyStep (h : CopiedUpTo s n t) (hn : n < s.cfgp.fbLen) : CopiedUpTo s (n + 1) t.copyStep := by
  have hlt : t.copyIdx.toNat < t.cfgp.fbLen := by rwa [h.copyIdx, h.cfgp]
  have hframe := copyStep_byte_frame h.cmdState hlt
  have hread := copyStep_byte_bufRead h.cmdState hlt
  rw [h.frontSel, h.copyIdx, h.front] at hread
  exact {
    cmdState := (congrArg State.cmdState hframe).trans h.cmdState
    cfgp := (congrArg State.cfgp hframe).trans h.cfgp
    frontSel := (congrArg State.frontSel hframe).trans h.frontSel
    copyIdx := by rw [copyStep_byte_copyIdx h.cmdState hlt, h.copyIdx]
    front := fun off => by rw [hread, if_neg (by simp), h.front]
    back := fun off hoff => by
      rcases Nat.lt_succ_iff_lt_or_eq.1 hoff with hlt | rfl
      · rw [hread, if_neg fun e => hlt.ne (Prod.mk.inj e).2, h.back off hlt]
      · rw [hread, if_pos rfl] }

theorem iterate_copyStep (hcopy : s.cmdState = .copy) (hidx : s.copyIdx = 0) (hn : n ≤ s.cfgp.fbLen) :
    CopiedUpTo s n (State.copyStep^[n] s) := by
  induction n with
  | zero => exact start hcopy hidx
  | succ n ih =>
    rw [Function.iterate_succ_apply']
    exact (ih (Nat.le_of_lt hn)).copyStep hn

theorem bufRead_eq (h : CopiedUpTo s n t) (b : Bool) {off : Nat} (hoff : off < n) :
    t.bufRead b off = s.bufRead s.frontSel off := by
  rcases Bool.eq_or_eq_not b s.frontSel with rfl | rfl
  · exact h.front off
  · exact h.back off hoff

end CopiedUpTo

/-- Settles O39: the byte steps by induction, then the step that finds no byte left. -/
theorem copyRunsToEqualBuffers : Obligations.CopyRunsToEqualBuffers := by
  intro s ts hcopy hidx hsch
  have hrun := turnDoes_copyStep.run_replicate (s.cfgp.fbLen + 1) s ts
  have hdone : CopiedUpTo s s.cfgp.fbLen (State.copyStep^[s.cfgp.fbLen] s) := .iterate_copyStep hcopy hidx le_rfl
  rw [withSchedule_eq_self hsch, Function.iterate_succ_apply',
    copyStep_of_end hdone.cmdState (by rw [hdone.cfgp, hdone.copyIdx])] at hrun
  exact ⟨_, hrun, rfl, rfl, hdone.frontSel, hdone.copyIdx, fun b _ hoff => hdone.bufRead_eq b hoff⟩

/-! ## The end of a copy -/

theorem arbStep_of_copy (h : s.cmdState = .copy) : s.arbStep = s := arbStep_of_disabled (.inr (.inr h))

/-- A running copy is ended by reset or by the copy engine's step that finds no byte left, by nothing else. -/
theorem step_ends_copy (hcopy : s.cmdState = .copy) (hreset : s.schedule.head? ≠ some .resetInput) (hst : step s = .next t)
    (hend : t.cmdState ≠ .copy) :
    s.cfgp.fbLen ≤ s.copyIdx.toNat ∧ ∃ ts, t = { s with schedule := ts, cmdState := .idle } := by
  rcases step_shape hst with rfl | ⟨a, ts, hsch, ⟨-, rfl⟩ | ⟨-, hprod⟩ | ⟨-, rfl⟩ | ⟨-, rfl⟩ | ⟨rfl, -⟩⟩
  · exact absurd hcopy hend
  · exact absurd hcopy hend
  · rcases hprod with rfl | ⟨hidle, -⟩
    · exact absurd hcopy hend
    · rw [hcopy] at hidle
      cases hidle
  · rw [arbStep_of_copy (s := s.withSchedule ts) hcopy] at hend
    exact absurd hcopy hend
  · rcases copyStep_cases (s.withSchedule ts) with ⟨hno, -⟩ | ⟨-, hlt, -⟩ | ⟨-, hlen, e⟩
    · exact absurd hcopy hno
    · have hkeep := congrArg State.cmdState (copyStep_byte_frame (s := s.withSchedule ts) hcopy hlt)
      exact absurd (hkeep.trans hcopy) hend
    · exact ⟨hlen, ts, e⟩
  · exact absurd (congrArg List.head? hsch) hreset

/-- With every byte copied a running copy leaves the two buffers alike. -/
theorem Inv.buffers_eq (h : Inv s) (hcopy : s.cmdState = .copy) (hlen : s.cfgp.fbLen ≤ s.copyIdx.toNat) {off : Nat}
    (hoff : off < s.cfgp.fbLen) : s.bufRead false off = s.bufRead true off := by
  have hcopied := h.copied_below hcopy off (Nat.lt_of_lt_of_le hoff hlen)
  cases hfront : s.frontSel <;> rw [hfront] at hcopied
  · exact hcopied.symm
  · exact hcopied

/-- Settles O40: only the copy engine's last step ends a copy, and the invariant says what has been copied by then. -/
theorem stepThatEndsTheCopyLeavesEqualBuffers : Obligations.StepThatEndsTheCopyLeavesEqualBuffers := by
  intro s t hinv hcopy hreset hst hend
  obtain ⟨hlen, ts, rfl⟩ := step_ends_copy hcopy hreset hst hend
  exact ⟨rfl, fun _ hoff => hinv.buffers_eq hcopy hlen hoff⟩

end Sys2Proof.Machine
end

section
/-! SUPPORT. The exchange of the buffers: when the designation can change, when a pending request is served, and how long it waits
(R32, R175, R182 to R185). -/

namespace Sys2Proof.Machine

variable {s t : State} {ts : List Turn}

/-! ## Who writes the designation -/

theorem effect_frontSel {i : Instr} (hi : i ≠ .tick) (s : State) : (effect i s).frontSel = s.frontSel := by
  rcases effect_cases i s hi with e | ⟨_, _, -, e⟩ | ⟨_, e⟩ | ⟨_, e⟩ | ⟨_, -, -, e⟩ | ⟨_, -, e⟩ | ⟨_, -, e⟩ | ⟨_, -, e⟩ |
    ⟨_, e⟩ | ⟨_, e⟩ | ⟨_, e⟩ | ⟨_, e⟩ | ⟨_, e⟩ <;> simp [e]

theorem copyStep_frontSel (s : State) : s.copyStep.frontSel = s.frontSel := by
  rcases copyStep_cases s with ⟨-, e⟩ | ⟨-, -, e⟩ | ⟨-, -, e⟩ <;> simp [e]

theorem arbStep_frontSel_ne (h : s.arbStep.frontSel ≠ s.frontSel) :
    s.sync = true ∧ (s.cmdState = .waitSwap ∨ s.cmdState = .waitSwapc) := by
  rcases arbStep_cases s with ⟨hsync, hcmd, -⟩ | ⟨hsync, hcmd, -⟩ | ⟨-, -, e⟩ | ⟨-, e⟩
  · exact ⟨hsync, .inl hcmd⟩
  · exact ⟨hsync, .inr hcmd⟩
  all_goals exact absurd (congrArg State.frontSel e) h

/-- Settles O41, by the kinds of turn; that the sync window is before the frame's first row is the invariant's. -/
theorem designationChangesOnlyInTheSyncWindow : Obligations.DesignationChangesOnlyInTheSyncWindow := by
  intro s t hinv hst hne
  rcases step_shape hst with rfl | ⟨_, ts, hsch, ⟨-, rfl⟩ | ⟨-, hprod⟩ | ⟨rfl, rfl⟩ | ⟨-, rfl⟩ | ⟨rfl, -⟩⟩
  · exact absurd rfl hne
  · exact absurd rfl hne
  · rcases hprod with rfl | ⟨-, ws, ⟨c, rfl⟩ | ⟨i, hi, rfl⟩⟩
    · exact absurd rfl hne
    · exact absurd rfl hne
    · exact absurd (effect_frontSel hi { s with schedule := ts, commands := ws }) hne
  · obtain ⟨hsync, hcmd⟩ := arbStep_frontSel_ne (s := s.withSchedule ts) hne
    exact .inr ⟨congrArg List.head? hsch, hsync, hinv.sync_first_row hsync, hcmd⟩
  · exact absurd (copyStep_frontSel (s.withSchedule ts)) hne
  · exact .inl (congrArg List.head? hsch)

/-! ## A pending SWAP is served in the sync window -/

theorem run_one (h : step s = .next t) : Host.Core.run Sys2Proof.core 1 s = .next t := run_succ 0 h

theorem decodeWord_swap : decodeWord 0x30000000 = .ok .swap := decodeZ_formatZ 0x3#4 .swap

/-- Settles O42: the producer's turn records the request, the arbitrator's turn serves it. -/
theorem swapInAnOpenWindowCompletesAtOnce : Obligations.SwapInAnOpenWindowCompletesAtOnce := by
  intro s ts ws hidle hsync hsch hcmds
  have haccept : step s = .next { s with schedule := .arbitrator :: ts, commands := ws, cmdState := .waitSwap } :=
    (step_producer_of_decode hsch hcmds hidle decodeWord_swap).trans
      (exec_swap_of_idle (s := { s with schedule := .arbitrator :: ts, commands := ws }) hidle)
  have hserve := step_arbSwap (s := { s with schedule := .arbitrator :: ts, commands := ws, cmdState := .waitSwap })
    rfl hsync rfl
  rw [run_succ 1 haccept, run_one hserve, ← hidle]

theorem run_add {m : Nat} (n : Nat) (h : Host.Core.run Sys2Proof.core m s = .next t) :
    Host.Core.run Sys2Proof.core (m + n) s = Host.Core.run Sys2Proof.core n t := by
  induction m generalizing s with
  | zero => cases h; rw [Nat.zero_add]
  | succ m ih =>
    obtain ⟨u, hu⟩ := step_answers s
    rw [run_succ m hu] at h
    rw [Nat.succ_add, run_succ _ hu, ih h]

theorem ticks_eq_iterate (n : Nat) : ticks n = State.tick^[n] := by
  induction n with
  | zero => rfl
  | succ n ih => exact funext fun s => congrFun ih s.tick

theorem ticks_cmdState_commands (n : Nat) (s : State) :
    (ticks n s).cmdState = s.cmdState ∧ (ticks n s).commands = s.commands := by
  induction n generalizing s with
  | zero => exact ⟨rfl, rfl⟩
  | succ n ih => exact ih s.tick

/-- The ticks that finish the frame open the sync window before the first row of the next (R151, R153). -/
theorem ticks_to_frame_end (s : State) :
    (ticks (18 - s.lrow.val) s).sync = true ∧ (ticks (18 - s.lrow.val) s).lrow = 0 := by
  have hrow := s.lrow.isLt
  constructor
  · obtain ⟨n, hn⟩ : ∃ n, 18 - s.lrow.val = n + 1 := ⟨17 - s.lrow.val, by omega⟩
    rw [hn, ticks_succ_sync]
    exact decide_eq_true (by omega)
  · apply Fin.ext
    rw [ticks_lrow]
    simp

/-- Settles O43: the run is the ticks that finish the frame and one arbitrator turn in the window they open. -/
theorem pendingSwapCompletesInTheNextWindow : Obligations.PendingSwapCompletesInTheNextWindow := by
  intro s ts hcmd hsch
  have hticks := turnDoes_tick.run_replicate (18 - s.lrow.val) s (.arbitrator :: ts)
  rw [withSchedule_eq_self hsch, ← ticks_eq_iterate] at hticks
  have hlen : 19 - s.lrow.val = 18 - s.lrow.val + 1 := by omega
  obtain ⟨hsync, hrow⟩ := ticks_to_frame_end s
  obtain ⟨-, hfront, -⟩ := ticks_frame (18 - s.lrow.val) s
  obtain ⟨hpending, hcommands⟩ := ticks_cmdState_commands (18 - s.lrow.val) s
  rw [hlen, run_add 1 hticks]
  exact ⟨_, run_one (step_arbSwap rfl hsync (hpending.trans hcmd)), rfl, congrArg (!·) hfront, hsync, hrow, rfl, hcommands⟩

/-! ## A wait that no tick ends -/

/-- A command is pending and its window is closed. -/
def Waiting (s : State) : Prop :=
  s.sync = false ∧ (s.cmdState = .waitSwap ∨ s.cmdState = .waitSwapc ∨ s.cmdState = .waitSync)

theorem Waiting.cmdState_ne (h : Waiting s) : s.cmdState ≠ .idle ∧ s.cmdState ≠ .copy := by
  rcases h with ⟨-, h | h | h⟩ <;> rw [h] <;> decide

/-- While a command waits, every turn but the scheduler's and reset's passes: the port is closed, the window is closed and no copy
runs. -/
theorem Waiting.step (h : Waiting s) (hsch : ∀ a ∈ s.schedule, a ≠ .scheduler ∧ a ≠ .resetInput) :
    step s = .next (s.withSchedule s.schedule.tail) := by
  obtain ⟨hbusy, hno⟩ := h.cmdState_ne
  cases hs : s.schedule with
  | nil => simp [Machine.step, State.fetch, hs, withSchedule_eq_self]
  | cons a ts =>
    obtain ⟨htick, hreset⟩ := hsch a (by simp [hs])
    cases a with
    | scheduler => exact absurd rfl htick
    | producer => exact step_of_busy hbusy hs
    | arbitrator => exact step_arbitrator_of_disabled hs (.inl h.1)
    | copyEngine => exact (step_copyEngine hs).trans (congrArg _ (copyStep_of_not_copy (s := s.withSchedule ts) hno))
    | resetInput => exact absurd rfl hreset

theorem Waiting.run (h : Waiting s) (hsch : ∀ a ∈ s.schedule, a ≠ .scheduler ∧ a ≠ .resetInput) (n : Nat) :
    Host.Core.run Sys2Proof.core n s = .next (s.withSchedule (s.schedule.drop n)) := by
  induction n generalizing s with
  | zero => rfl
  | succ n ih =>
    rw [run_succ n (h.step hsch), ih (s := s.withSchedule s.schedule.tail) h fun a ha => hsch a (List.mem_of_mem_tail ha)]
    simp [State.withSchedule]

/-- Settles O44: each step of the wait takes one turn and changes nothing else. -/
theorem pendingCommandWaitsForeverWithoutTicks : Obligations.PendingCommandWaitsForeverWithoutTicks :=
  fun n _ hsync hcmd hsch => Waiting.run ⟨hsync, hcmd⟩ hsch n

end Sys2Proof.Machine
end

section
/-! SUPPORT. The configuration commands at an open port: the clamped setters, the 1-bit setters, and the register GETCFG responds
(R200 to R212). -/

namespace Sys2Proof.Machine

variable {s : State}

/-! ## The clamped setters -/

theorem clampPulse_toNat (c : Cfgp) (imm : Half) : (clampPulse c imm).toNat = min imm.toNat c.pulseMax.toNat := by
  unfold clampPulse
  split_ifs <;> omega

theorem clampInterval_toNat (c : Cfgp) (imm : Half) : (clampInterval c imm).toNat = max imm.toNat c.intervalMin.toNat := by
  unfold clampInterval
  split_ifs <;> omega

theorem clampPulse_idem (c : Cfgp) (imm : Half) : clampPulse c (clampPulse c imm) = clampPulse c imm :=
  if_pos (clampPulse_le c imm)

theorem clampInterval_idem (c : Cfgp) (imm : Half) : clampInterval c (clampInterval c imm) = clampInterval c imm :=
  if_pos (le_clampInterval c imm)

theorem exec_setbrt_of_clamp (hidle : s.cmdState = .idle) {imm v : Half} (hv : clampPulse s.cfgp.toCfgp imm = v) :
    exec (.setbrt imm) s = .next { s with cfgBright := v } :=
  hv ▸ accept_of_idle hidle _

theorem exec_setdrk_of_clamp (hidle : s.cmdState = .idle) {imm v : Half} (hv : clampPulse s.cfgp.toCfgp imm = v) :
    exec (.setdrk imm) s = .next { s with cfgDark := v } :=
  hv ▸ accept_of_idle hidle _

theorem exec_setivl_of_clamp (hidle : s.cmdState = .idle) {imm v : Half} (hv : clampInterval s.cfgp.toCfgp imm = v) :
    exec (.setivl imm) s = .next { s with cfgInterval := v } :=
  hv ▸ accept_of_idle hidle _

/-- Settles O16: the value stored is the clamped immediate, and clamping it again keeps it. -/
theorem pulseAndIntervalSettersClamp : Obligations.PulseAndIntervalSettersClamp := by
  intro s imm hidle
  have hpulse := clampPulse_idem s.cfgp.toCfgp imm
  have hinterval := clampInterval_idem s.cfgp.toCfgp imm
  refine ⟨⟨_, clampPulse_toNat s.cfgp.toCfgp imm, ?_, ?_, ?_, ?_⟩, _, clampInterval_toNat s.cfgp.toCfgp imm, ?_, ?_⟩
  · exact exec_setbrt_of_clamp hidle rfl
  · exact exec_setdrk_of_clamp hidle rfl
  · exact exec_setbrt_of_clamp (s := { s with cfgBright := clampPulse s.cfgp.toCfgp imm }) hidle hpulse
  · exact exec_setdrk_of_clamp (s := { s with cfgDark := clampPulse s.cfgp.toCfgp imm }) hidle hpulse
  · exact exec_setivl_of_clamp hidle rfl
  · exact exec_setivl_of_clamp (s := { s with cfgInterval := clampInterval s.cfgp.toCfgp imm }) hidle hinterval

/-! ## The 1-bit setters -/

/-- Whichever register a 1-bit setter writes, it takes the bit that a legal immediate is (R201). -/
theorem setBit_of_legal (hidle : s.cmdState = .idle) {imm : Half} {b : Bool} (h : oneBit imm = some b) (write : Bool → State) :
    setBit imm write s = .next (write b) := by
  simp [setBit, hidle, h]

section
variable (hidle : s.cmdState = .idle) {imm : Half} {b : Bool} (h : oneBit imm = some b)
include hidle h

theorem exec_setord_of_legal : exec (.setord imm) s = .next { s with cfgBitorder := bitOrderOf b } := setBit_of_legal hidle h _

theorem exec_setlay_of_legal : exec (.setlay imm) s = .next { s with cfgLayout := layoutOf b } := setBit_of_legal hidle h _

theorem exec_setinv_of_legal : exec (.setinv imm) s = .next { s with cfgInvert := b } := setBit_of_legal hidle h _

theorem exec_setilc_of_legal : exec (.setilc imm) s = .next { s with cfgInterlace := b } := setBit_of_legal hidle h _

theorem exec_setgry_of_legal : exec (.setgry imm) s = .next { s with cfgGrey := b } := setBit_of_legal hidle h _

end

/-- Settles O17: each setter writes the bit that its immediate is, read as a bit order or a layout where its register is one. -/
theorem oneBitSettersWriteTheirRegister : Obligations.OneBitSettersWriteTheirRegister := by
  intro s hidle
  have h0 : oneBit 0 = some false := rfl
  have h1 : oneBit 1 = some true := rfl
  exact ⟨exec_setord_of_legal hidle h0, exec_setord_of_legal hidle h1, exec_setlay_of_legal hidle h0, exec_setlay_of_legal hidle h1,
    exec_setinv_of_legal hidle h0, exec_setinv_of_legal hidle h1, exec_setilc_of_legal hidle h0, exec_setilc_of_legal hidle h1,
    exec_setgry_of_legal hidle h0, exec_setgry_of_legal hidle h1⟩

/-! ## GETCFG -/

theorem zextBit_eq_ofNat (b : Bool) : zextBit b = BitVec.ofNat 16 b.toNat := by
  cases b <;> rfl

theorem bitOrderBit_toNat (o : BitOrder) : (bitOrderBit o).toNat = if o = .lsbFirst then 1 else 0 := by
  cases o <;> rfl

theorem layoutBit_toNat (l : Layout) : (layoutBit l).toNat = if l = .v then 1 else 0 := by
  cases l <;> rfl

/-- The fields of STATUS stand at bits 0, 1, 2 and 5:3 (R44). -/
theorem status_toNat (s : State) :
    s.status.toNat = s.sync.toNat + 2 * s.frontSel.toNat + 4 * s.err.toNat + 8 * s.errcode.toNat := by
  simp only [State.status, toNat_append_eq, BitVec.toNat_ofBool, BitVec.toNat_ofNat]
  omega

/-- Selector by selector, the value read is the one listed: a register's own, a flag's bit or STATUS (R36, R210). -/
theorem selectorValue_of_lookup {sel : BitVec 4} {v : Nat}
    (h : [s.cfgBright.toNat, s.cfgDark.toNat, s.cfgInterval.toNat, if s.cfgBitorder = .lsbFirst then 1 else 0,
      if s.cfgLayout = .v then 1 else 0, s.cfgInvert.toNat, s.cfgInterlace.toNat, s.cfgGrey.toNat,
      s.sync.toNat + 2 * s.frontSel.toNat + 4 * s.err.toNat + 8 * s.errcode.toNat][sel.toNat]? = some v) :
    s.selectorValue sel = some (BitVec.ofNat 16 v) := by
  have hlt : sel.toNat < 9 := (List.getElem?_eq_some_iff.1 h).1
  rw [← bitOrderBit_toNat, ← layoutBit_toNat, ← status_toNat] at h
  unfold State.selectorValue
  generalize sel.toNat = n at h hlt ⊢
  interval_cases n <;> cases h <;> simp [zextBit_eq_ofNat]

theorem exec_getcfg_of_selectorValue (hidle : s.cmdState = .idle) {sel : BitVec 4} {v : Half} (h : s.selectorValue sel = some v) :
    exec (.getcfg sel) s = .next (s.respond v) := by
  simp [exec, execGetcfg, hidle, h]

/-- Settles O18: the selector's register has the value listed, and an open port responds it. -/
theorem getcfgRespondsTheSelectedRegister : Obligations.GetcfgRespondsTheSelectedRegister :=
  fun _ _ _ hidle hv => exec_getcfg_of_selectorValue hidle (selectorValue_of_lookup hv)

end Sys2Proof.Machine
end

section
/-! SUPPORT. Producer buffer access with legal operands: NOP, the byte WRB writes, the byte RDB responds, and that ticks between the two
keep it (R230 to R234). -/

namespace Sys2Proof.Machine

variable {s : State} {off : BitVec 16}

/-! ## WRB -/

/-- Settles O11: the one buffer write that a legal WRB is, read back byte by byte. -/
theorem wrbWritesOneByteOfTheBackBuffer : Obligations.WrbWritesOneByteOfTheBackBuffer := by
  intro s off data hidle hoff
  refine ⟨_, execWrb_of_legal hidle data hoff, fun b o => ?bytes, bufWrite_eq s ..⟩
  case bytes => simp only [State.bufRead_bufWrite, Prod.mk.injEq, @eq_comm _ b, @eq_comm _ o]

/-! ## RDB -/

theorem exec_rdb_of_legal (hidle : s.cmdState = .idle) (h : off.toNat < s.cfgp.fbLen) :
    exec (.rdb off) s = .next (s.respond ((s.bufRead (!s.frontSel) off.toNat).zeroExtend 16)) := by
  simp [exec, execRdb, hidle, State.offsetLegal, State.effAddr, h]

/-- Settles O12: a byte keeps its number in the response width. -/
theorem rdbRespondsTheByteOfTheBackBuffer : Obligations.RdbRespondsTheByteOfTheBackBuffer :=
  fun _ _ hidle hoff => ⟨_, BitVec.toNat_setWidth_of_le (by decide), exec_rdb_of_legal hidle hoff⟩

/-! ## RDB after WRB -/

theorem ticks_responses (n : Nat) (s : State) : (ticks n s).responses = s.responses := by
  induction n generalizing s with
  | zero => rfl
  | succ n ih => exact ih s.tick

theorem bufRead_ticks (n : Nat) (s : State) (b : Bool) (o : Nat) : (ticks n s).bufRead b o = s.bufRead b o := by
  induction n generalizing s with
  | zero => rfl
  | succ n ih => exact ih s.tick

/-- After any number of ticks an open port still responds the byte that stood in the back buffer before them. -/
theorem exec_rdb_ticks (hidle : s.cmdState = .idle) (h : off.toNat < s.cfgp.fbLen) (n : Nat) :
    exec (.rdb off) (ticks n s) =
      .next ((ticks n s).respond ((s.bufRead (!s.frontSel) off.toNat).zeroExtend 16)) := by
  obtain ⟨hcfgp, hfront, -⟩ := ticks_frame n s
  obtain ⟨hcmd, -⟩ := ticks_cmdState_commands n s
  rw [exec_rdb_of_legal (hcmd.trans hidle) (hcfgp ▸ h), bufRead_ticks, hfront]

/-- Settles O13: the ticks keep the port open, the designation and the written byte, so RDB reads what WRB wrote. -/
theorem rdbAfterWrbAndTicksRespondsTheWrittenByte : Obligations.RdbAfterWrbAndTicksRespondsTheWrittenByte := by
  intro s off data n hidle hoff
  have hrdb := exec_rdb_ticks (s := s.bufWrite (!s.frontSel) off.toNat data) (off := off) (by simpa using hidle)
    (by simpa using hoff) n
  refine ⟨_, _, execWrb_of_legal hidle data hoff, hrdb, ?_⟩
  simp [ticks_responses, State.bufRead_bufWrite]

/-! ## NOP -/

theorem exec_nop_of_idle (hidle : s.cmdState = .idle) : exec .nop s = .next s := accept_of_idle hidle s

/-- Below `2 ^ 28` the opcode is NOP's, and bits 27:0 are the whole word. -/
theorem decodeWord_of_lt {w : Word} (h : w.toNat < 2 ^ 28) :
    decodeWord w = if w = 0 then .ok .nop else .error .reservedField := by
  have hop : (Word.op w).toNat = 0 := by rw [Word.toNat_op, Nat.div_eq_of_lt h]
  have hrest : Word.restZ w = 0#28 ↔ w = 0 := by
    rw [bitVec_eq_zero_iff w, ← Nat.mod_eq_of_lt h, ← Word.toNat_restZ]
    exact bitVec_eq_zero_iff (Word.restZ w)
  simp only [decodeWord, hop, decodeZ, hrest]

/-- Settles O10: the words with NOP's opcode are the zero word, which is NOP, and the rejected ones. -/
theorem nopChangesNothing : Obligations.NopChangesNothing :=
  ⟨decodeWord_of_lt (w := 0) (by decide), fun _ => exec_nop_of_idle, fun _ hlt hne => (decodeWord_of_lt hlt).trans (if_neg hne)⟩

end Sys2Proof.Machine
end

section
/-! SUPPORT. Who writes a register: the engine's are the tick's, the configuration, the error record and the responses are the
producer's, and none of the producer's turns clears the error record (R35, R45, R252, R261). -/

namespace Sys2Proof.Machine

variable {s t : State}

/-- What a step other than reset does, by the agent that acts: besides taking its inputs it is a tick, a word of the producer, a step
of the arbitrator or of the copy engine, or nothing. -/
theorem step_shape_of_not_reset (hst : step s = .next t) (hreset : s.schedule.head? ≠ some .resetInput) :
    ∃ ws ts, t = s.withInputs ws ts ∨
      (s.schedule.head? = some .scheduler ∧ t = (s.withInputs ws ts).tick) ∨
      (s.schedule.head? = some .producer ∧
        ((∃ c, t = (s.withInputs ws ts).error c) ∨ ∃ i, i ≠ .tick ∧ t = effect i (s.withInputs ws ts))) ∨
      t = (s.withInputs ws ts).arbStep ∨ t = (s.withInputs ws ts).copyStep := by
  rcases step_shape hst with rfl | ⟨a, ts, hsch, hturn⟩
  · exact ⟨_, _, .inl rfl⟩
  have hhead : s.schedule.head? = some a := congrArg List.head? hsch
  rcases hturn with ⟨rfl, rfl⟩ | ⟨rfl, rfl | ⟨-, ws, hcmd⟩⟩ | ⟨-, rfl⟩ | ⟨-, rfl⟩ | ⟨rfl, -⟩
  · exact ⟨s.commands, ts, .inr (.inl ⟨hhead, rfl⟩)⟩
  · exact ⟨s.commands, ts, .inl rfl⟩
  · exact ⟨ws, ts, .inr (.inr (.inl ⟨hhead, hcmd⟩))⟩
  · exact ⟨s.commands, ts, .inr (.inr (.inr (.inl rfl)))⟩
  · exact ⟨s.commands, ts, .inr (.inr (.inr (.inr rfl)))⟩
  · exact absurd hhead hreset

/-! ## The engine registers -/

/-- The engine registers, the sync flag and the trace: what the scheduler's turn writes (R261). -/
def State.engineRegisters (s : State) : Row × Row × Row × Bool × Bool × Half × List TxRecord :=
  (s.lrow, s.prow, s.pprev, s.phase, s.sync, s.apulse, s.trace)

theorem arbStep_engineRegisters (s : State) : s.arbStep.engineRegisters = s.engineRegisters := by
  rcases arbStep_cases s with ⟨-, -, e⟩ | ⟨-, -, e⟩ | ⟨-, -, e⟩ | ⟨-, e⟩ <;> rw [e] <;> rfl

theorem copyStep_engineRegisters (s : State) : s.copyStep.engineRegisters = s.engineRegisters := by
  rcases copyStep_cases s with ⟨-, e⟩ | ⟨-, -, e⟩ | ⟨-, -, e⟩ <;> simp [e, State.engineRegisters]

theorem effect_engineRegisters {i : Instr} (hi : i ≠ .tick) (s : State) :
    (effect i s).engineRegisters = s.engineRegisters := by
  rcases effect_cases i s hi with e | ⟨_, _, -, e⟩ | ⟨_, e⟩ | ⟨_, e⟩ | ⟨_, -, -, e⟩ | ⟨_, -, e⟩ | ⟨_, -, e⟩ | ⟨_, -, e⟩ |
    ⟨_, e⟩ | ⟨_, e⟩ | ⟨_, e⟩ | ⟨_, e⟩ | ⟨_, e⟩ <;> simp [e, State.engineRegisters]

theorem step_engineRegisters (hst : step s = .next t) (hreset : s.schedule.head? ≠ some .resetInput)
    (htick : s.schedule.head? ≠ some .scheduler) : t.engineRegisters = s.engineRegisters := by
  obtain ⟨ws, ts, rfl | ⟨hhead, -⟩ | ⟨-, ⟨c, rfl⟩ | ⟨i, hi, rfl⟩⟩ | rfl | rfl⟩ := step_shape_of_not_reset hst hreset
  · rfl
  · exact absurd hhead htick
  · rfl
  · exact effect_engineRegisters hi _
  · exact arbStep_engineRegisters _
  · exact copyStep_engineRegisters _

/-- Settles O45, by the agents: of those that can act only the scheduler's turn writes the engine registers. -/
theorem engineRegistersChangeInTicksOnly : Obligations.EngineRegistersChangeInTicksOnly := by
  intro s t hst htick hreset
  simpa [State.engineRegisters] using step_engineRegisters hst hreset htick

/-! ## The registers of the producer's turn -/

/-- The configuration registers (R36). -/
def State.configuration (s : State) : Half × Half × Half × BitOrder × Layout × Bool × Bool × Bool :=
  (s.cfgBright, s.cfgDark, s.cfgInterval, s.cfgBitorder, s.cfgLayout, s.cfgInvert, s.cfgInterlace, s.cfgGrey)

/-- The configuration registers, the error record and the responses: what the producer's turn writes (R261). -/
def State.producerRegisters (s : State) := (s.configuration, s.err, s.errcode, s.responses)

theorem arbStep_producerRegisters (s : State) : s.arbStep.producerRegisters = s.producerRegisters := by
  rcases arbStep_cases s with ⟨-, -, e⟩ | ⟨-, -, e⟩ | ⟨-, -, e⟩ | ⟨-, e⟩ <;> rw [e] <;> rfl

theorem copyStep_producerRegisters (s : State) : s.copyStep.producerRegisters = s.producerRegisters := by
  rcases copyStep_cases s with ⟨-, e⟩ | ⟨-, -, e⟩ | ⟨-, -, e⟩ <;> simp [e, State.producerRegisters, State.configuration]

/-- A step other than reset leaves the producer's registers as they are, unless it is a producer's turn that takes a word. -/
theorem step_producerRegisters_or_producer (hst : step s = .next t) (hreset : s.schedule.head? ≠ some .resetInput) :
    t.producerRegisters = s.producerRegisters ∨
      s.schedule.head? = some .producer ∧ ∃ ws ts,
        (∃ c, t = (s.withInputs ws ts).error c) ∨ ∃ i, i ≠ .tick ∧ t = effect i (s.withInputs ws ts) := by
  obtain ⟨ws, ts, rfl | ⟨-, rfl⟩ | ⟨hhead, hcmd⟩ | rfl | rfl⟩ := step_shape_of_not_reset hst hreset
  · exact .inl rfl
  · exact .inl rfl
  · exact .inr ⟨hhead, ws, ts, hcmd⟩
  · exact .inl (arbStep_producerRegisters _)
  · exact .inl (copyStep_producerRegisters _)

/-- For each configuration register, whether it differs between two states. -/
def configurationChanges (s t : State) : List Bool :=
  [decide (t.cfgBright ≠ s.cfgBright), decide (t.cfgDark ≠ s.cfgDark), decide (t.cfgInterval ≠ s.cfgInterval),
    decide (t.cfgBitorder ≠ s.cfgBitorder), decide (t.cfgLayout ≠ s.cfgLayout), decide (t.cfgInvert ≠ s.cfgInvert),
    decide (t.cfgInterlace ≠ s.cfgInterlace), decide (t.cfgGrey ≠ s.cfgGrey)]

theorem count_configurationChanges_of_eq (h : t.configuration = s.configuration) :
    (configurationChanges s t).count true ≤ 1 := by
  simp_all [State.configuration, configurationChanges]

/-- R45: a command writes at most one configuration register. -/
theorem count_configurationChanges_effect {i : Instr} (hi : i ≠ .tick) (s : State) :
    (configurationChanges s (effect i s)).count true ≤ 1 := by
  rcases effect_cases i s hi with e | ⟨_, _, -, e⟩ | ⟨_, e⟩ | ⟨_, e⟩ | ⟨_, -, -, e⟩ | ⟨_, -, e⟩ | ⟨_, -, e⟩ | ⟨_, -, e⟩ |
    ⟨_, e⟩ | ⟨_, e⟩ | ⟨_, e⟩ | ⟨_, e⟩ | ⟨_, e⟩ <;> rw [e]
  · exact count_configurationChanges_of_eq rfl
  · exact count_configurationChanges_of_eq (by simp [State.configuration])
  · exact count_configurationChanges_of_eq rfl
  · exact count_configurationChanges_of_eq rfl
  · exact count_configurationChanges_of_eq rfl
  -- a setter: the seven other registers do not differ
  all_goals
    simp only [configurationChanges, ne_eq, not_true_eq_false, decide_false, List.count_cons, List.count_nil, beq_iff_eq,
      Bool.false_eq_true, if_false]
    split <;> omega

/-- Settles O46: only a producer's turn that takes a word writes these registers, and its command one of the configuration's at most. -/
theorem configurationChangesInProducerTurnsOnly : Obligations.ConfigurationChangesInProducerTurnsOnly := by
  intro s t hst hreset
  have hor := step_producerRegisters_or_producer hst hreset
  constructor
  · intro hprod
    simpa [State.producerRegisters, State.configuration, and_assoc] using hor.resolve_right fun h => hprod h.1
  · change (configurationChanges s t).count true ≤ 1
    rcases hor with hkeep | ⟨-, ws, ts, ⟨c, rfl⟩ | ⟨i, hi, rfl⟩⟩
    · exact count_configurationChanges_of_eq (congrArg Prod.fst hkeep)
    · exact count_configurationChanges_of_eq rfl
    · exact count_configurationChanges_effect hi (s.withInputs ws ts)

/-! ## The error record -/

/-- A command error after the first leaves the error record as it is (R252). -/
theorem error_keeps_record_of_err (herr : s.err = true) (c : ErrCode) : (s.error c).err = true ∧ (s.error c).errcode = s.errcode := by
  simp [herr]

theorem effect_keeps_record_of_err {i : Instr} (hi : i ≠ .tick) (herr : s.err = true) :
    (effect i s).err = true ∧ (effect i s).errcode = s.errcode := by
  rcases effect_cases i s hi with e | ⟨_, _, -, e⟩ | ⟨_, e⟩ | ⟨c, e⟩ | ⟨_, -, -, e⟩ | ⟨_, -, e⟩ | ⟨_, -, e⟩ | ⟨_, -, e⟩ |
    ⟨_, e⟩ | ⟨_, e⟩ | ⟨_, e⟩ | ⟨_, e⟩ | ⟨_, e⟩ <;> rw [e]
  case inr.inl => simp [herr]
  case inr.inr.inr.inl => exact error_keeps_record_of_err herr c
  all_goals exact ⟨herr, rfl⟩

/-- Settles O48: only a producer's turn writes the error record, and neither a command error nor a command changes one that is set. -/
theorem errorRecordIsStickyUntilReset : Obligations.ErrorRecordIsStickyUntilReset := by
  intro s t hst hreset herr
  rcases step_producerRegisters_or_producer hst hreset with hkeep | ⟨-, ws, ts, ⟨c, rfl⟩ | ⟨i, hi, rfl⟩⟩
  · obtain ⟨-, hterr, hcode, -⟩ : t.configuration = s.configuration ∧ t.err = s.err ∧ t.errcode = s.errcode ∧ _ := by
      simpa [State.producerRegisters] using hkeep
    exact ⟨hterr.trans herr, hcode⟩
  · exact error_keeps_record_of_err (s := s.withInputs ws ts) herr c
  · exact effect_keeps_record_of_err (s := s.withInputs ws ts) hi herr

end Sys2Proof.Machine
end

section
/-! SUPPORT. The turn of the reset input, and the invariants where a machine begins (R280, R281). -/

namespace Sys2Proof.Machine

variable {s : State} {ts : List Turn}

theorem step_resetInput (hsch : s.schedule = .resetInput :: ts) : step s = .next (s.withSchedule ts).applyReset := by
  simp [step, State.fetch, hsch, State.turn, State.withSchedule]

/-- Settles O50: the turn applies reset, which has no byte of either buffer among its changes. -/
theorem resetTurnRestoresTheRegistersAndKeepsTheBuffers : Obligations.ResetTurnRestoresTheRegistersAndKeepsTheBuffers :=
  fun s ts hsch => ⟨(s.withSchedule ts).applyReset, step_resetInput hsch, State.bufRead_applyReset (s.withSchedule ts), rfl⟩

/-- Settles O51: the default machine is the one of the default record. -/
theorem invariantsHoldAfterReset : Obligations.InvariantsHoldAfterReset :=
  ⟨inv_resetOf, inv_resetOf Config.machine⟩

end Sys2Proof.Machine
end
